-- ==== Sys2Proof/Word.lean ====
section
/-! DEFINITION. The words of the machine: bytes, 16-bit words, addresses of registers. Every value is an
unsigned integer of a stated width (spec/00_scope.md R10). -/

namespace Sys2Proof

/-- An 8-bit value: a general register, a byte of `MEM`, a timer (R7 `V_WIDTH`, `TIMER_WIDTH`). -/
abbrev Byte := BitVec 8

/-- A 16-bit value: an instruction word, `I`, `PC`, a stack slot, the key snapshot (R7). -/
abbrev Word := BitVec 16

/-- A 12-bit address immediate `nnn` (spec/30_encoding.md R71). -/
abbrev Addr12 := BitVec 12

/-- The number of a general register, 0 to 15; every value names a real register (R20, R73). -/
abbrev Reg := Fin 16

end Sys2Proof
end

