-- ==== Sys2Proof/Config.lean ====
section
/-! DEFINITION. What the hardware fixes (spec/00_scope.md R7) and the one value it leaves free. The instruction
rate `IPS` and the 60 Hz of the timer clock are in no rule of the machine (R239, log 17) and have no constant
here; the three dialect switches of R8 are pinned in Machine/Operands.lean and Machine/Flags.lean. -/

namespace Sys2Proof.Config

/-- `MEM_SIZE`: addresses 0x000 to 0xFFF. -/
def memSize : Nat := 0x1000

/-- `STACK_DEPTH`. -/
def stackDepth : Nat := 16

/-- `PC_RESET`. -/
def pcReset : Word := 0x200#16

/-- `PROG_BASE`: where `Load` puts the first byte of an image. -/
def progBase : Nat := 0x200

/-- `PROG_MAX_LEN`: 0x1000 - 0x200. -/
def progMaxLen : Nat := 0xE00

/-- `FONT_BASE`. -/
def fontBase : Nat := 0x000

/-- `FONT_GLYPH_BYTES`. -/
def fontGlyphBytes : Nat := 5

/-- The 80 bytes of the font: `FONT_GLYPHS` times `FONT_GLYPH_BYTES`. -/
def fontSize : Nat := 80

/-- FREE VALUE (log 3; R132, decision D14): the random byte of the k-th draw. It has no body, so nothing can be
proved of it: a claim holds whatever bytes the environment supplies. -/
opaque draw : Nat → Byte

end Sys2Proof.Config
end

