-- ==== Sys2Proof/Syntax.lean ====
section
/-! DEFINITION. The 34 instructions of spec/30_encoding.md R75, one constructor per row, in the table's order.
The operands are typed by their field widths (R71), so every term of `Instr` is an instruction. -/

namespace Sys2Proof

/-- An instruction. `x` and `y` are register numbers, `nn` an 8-bit and `nnn` a 12-bit immediate, `n` the sprite
height. -/
inductive Instr where
  | cls                                 -- 00E0  CLS
  | ret                                 -- 00EE  RET
  | jp (nnn : Addr12)                   -- 1nnn  JP nnn
  | call (nnn : Addr12)                 -- 2nnn  CALL nnn
  | seImm (x : Reg) (nn : Byte)         -- 3xnn  SE Vx, nn
  | sneImm (x : Reg) (nn : Byte)        -- 4xnn  SNE Vx, nn
  | seReg (x y : Reg)                   -- 5xy0  SE Vx, Vy
  | ldImm (x : Reg) (nn : Byte)         -- 6xnn  LD Vx, nn
  | addImm (x : Reg) (nn : Byte)        -- 7xnn  ADD Vx, nn
  | ldReg (x y : Reg)                   -- 8xy0  LD Vx, Vy
  | orReg (x y : Reg)                   -- 8xy1  OR Vx, Vy
  | andReg (x y : Reg)                  -- 8xy2  AND Vx, Vy
  | xorReg (x y : Reg)                  -- 8xy3  XOR Vx, Vy
  | addReg (x y : Reg)                  -- 8xy4  ADD Vx, Vy
  | subReg (x y : Reg)                  -- 8xy5  SUB Vx, Vy
  | shrReg (x y : Reg)                  -- 8xy6  SHR Vx, Vy
  | subnReg (x y : Reg)                 -- 8xy7  SUBN Vx, Vy
  | shlReg (x y : Reg)                  -- 8xyE  SHL Vx, Vy
  | sneReg (x y : Reg)                  -- 9xy0  SNE Vx, Vy
  | ldI (nnn : Addr12)                  -- Annn  LD I, nnn
  | jpV0 (nnn : Addr12)                 -- Bnnn  JP V0, nnn
  | rnd (x : Reg) (nn : Byte)           -- Cxnn  RND Vx, nn
  | drw (x y : Reg) (n : BitVec 4)      -- Dxyn  DRW Vx, Vy, n
  | skp (x : Reg)                       -- Ex9E  SKP Vx
  | sknp (x : Reg)                      -- ExA1  SKNP Vx
  | ldVxDt (x : Reg)                    -- Fx07  LD Vx, DT
  | ldDtVx (x : Reg)                    -- Fx15  LD DT, Vx
  | ldStVx (x : Reg)                    -- Fx18  LD ST, Vx
  | addI (x : Reg)                      -- Fx1E  ADD I, Vx
  | ldVxK (x : Reg)                     -- Fx0A  LD Vx, K
  | ldF (x : Reg)                       -- Fx29  LD F, Vx
  | ldB (x : Reg)                       -- Fx33  LD B, Vx
  | storeRegs (x : Reg)                 -- Fx55  LD [I], Vx
  | loadRegs (x : Reg)                  -- Fx65  LD Vx, [I]
  deriving DecidableEq, Repr

end Sys2Proof
end

