-- ==== Sys2Proof/WellFormed.lean ====
section
/-! DEFINITION. What is well formed: a field value that fits its bits, a word that is an instruction (the mask and
match table of spec/30_encoding.md R75), an image the loader may load (spec/70_reset_and_hazards.md R232). -/

namespace Sys2Proof

/-- A row of the opcode list: the unique mnemonic, the mask and the match value (R74, R75). -/
structure OpcodeRow where
  mnemonic : String
  mask : Word
  value : Word
  deriving DecidableEq, Repr

/-- R74: the word is this row's instruction. -/
def OpcodeRow.accepts (r : OpcodeRow) (w : Word) : Bool := w &&& r.mask == r.value

/-- Rows 1 to 9 of R75: majors 0 to 7. -/
def rowsLow : List OpcodeRow := [
  ⟨"CLS", 0xFFFF#16, 0x00E0#16⟩,
  ⟨"RET", 0xFFFF#16, 0x00EE#16⟩,
  ⟨"JP_NNN", 0xF000#16, 0x1000#16⟩,
  ⟨"CALL_NNN", 0xF000#16, 0x2000#16⟩,
  ⟨"SE_VX_NN", 0xF000#16, 0x3000#16⟩,
  ⟨"SNE_VX_NN", 0xF000#16, 0x4000#16⟩,
  ⟨"SE_VX_VY", 0xF00F#16, 0x5000#16⟩,
  ⟨"LD_VX_NN", 0xF000#16, 0x6000#16⟩,
  ⟨"ADD_VX_NN", 0xF000#16, 0x7000#16⟩]

/-- Rows 10 to 23 of R75: majors 8 to D. -/
def rowsMid : List OpcodeRow := [
  ⟨"LD_VX_VY", 0xF00F#16, 0x8000#16⟩,
  ⟨"OR_VX_VY", 0xF00F#16, 0x8001#16⟩,
  ⟨"AND_VX_VY", 0xF00F#16, 0x8002#16⟩,
  ⟨"XOR_VX_VY", 0xF00F#16, 0x8003#16⟩,
  ⟨"ADD_VX_VY", 0xF00F#16, 0x8004#16⟩,
  ⟨"SUB_VX_VY", 0xF00F#16, 0x8005#16⟩,
  ⟨"SHR_VX_VY", 0xF00F#16, 0x8006#16⟩,
  ⟨"SUBN_VX_VY", 0xF00F#16, 0x8007#16⟩,
  ⟨"SHL_VX_VY", 0xF00F#16, 0x800E#16⟩,
  ⟨"SNE_VX_VY", 0xF00F#16, 0x9000#16⟩,
  ⟨"LD_I_NNN", 0xF000#16, 0xA000#16⟩,
  ⟨"JP_V0_NNN", 0xF000#16, 0xB000#16⟩,
  ⟨"RND_VX_NN", 0xF000#16, 0xC000#16⟩,
  ⟨"DRW_VX_VY_N", 0xF000#16, 0xD000#16⟩]

/-- Rows 24 to 34 of R75: majors E and F. -/
def rowsHigh : List OpcodeRow := [
  ⟨"SKP_VX", 0xF0FF#16, 0xE09E#16⟩,
  ⟨"SKNP_VX", 0xF0FF#16, 0xE0A1#16⟩,
  ⟨"LD_VX_DT", 0xF0FF#16, 0xF007#16⟩,
  ⟨"LD_DT_VX", 0xF0FF#16, 0xF015#16⟩,
  ⟨"LD_ST_VX", 0xF0FF#16, 0xF018#16⟩,
  ⟨"ADD_I_VX", 0xF0FF#16, 0xF01E#16⟩,
  ⟨"LD_VX_K", 0xF0FF#16, 0xF00A#16⟩,
  ⟨"LD_F_VX", 0xF0FF#16, 0xF029#16⟩,
  ⟨"LD_B_VX", 0xF0FF#16, 0xF033#16⟩,
  ⟨"LD_MEM_I_VX", 0xF0FF#16, 0xF055#16⟩,
  ⟨"LD_VX_MEM_I", 0xF0FF#16, 0xF065#16⟩]

/-- The complete opcode list, in the document's order (R75). -/
def opcodeRows : List OpcodeRow := rowsLow ++ rowsMid ++ rowsHigh

/-- R76: a word is an instruction exactly when some row accepts it. -/
def wordWellFormed (w : Word) : Bool := opcodeRows.any (·.accepts w)

/-- R71: a field's value fits the field's width. -/
def fieldFits (value width : Nat) : Bool := decide (value < 2 ^ width)

/-- The operand fields of an instruction, each with its width in bits (R71, R72). -/
def Instr.fields : Instr → List (Nat × Nat)
  | .cls => []
  | .ret => []
  | .jp nnn => [(nnn.toNat, 12)]
  | .call nnn => [(nnn.toNat, 12)]
  | .seImm x nn => [(x.val, 4), (nn.toNat, 8)]
  | .sneImm x nn => [(x.val, 4), (nn.toNat, 8)]
  | .seReg x y => [(x.val, 4), (y.val, 4)]
  | .ldImm x nn => [(x.val, 4), (nn.toNat, 8)]
  | .addImm x nn => [(x.val, 4), (nn.toNat, 8)]
  | .ldReg x y => [(x.val, 4), (y.val, 4)]
  | .orReg x y => [(x.val, 4), (y.val, 4)]
  | .andReg x y => [(x.val, 4), (y.val, 4)]
  | .xorReg x y => [(x.val, 4), (y.val, 4)]
  | .addReg x y => [(x.val, 4), (y.val, 4)]
  | .subReg x y => [(x.val, 4), (y.val, 4)]
  | .shrReg x y => [(x.val, 4), (y.val, 4)]
  | .subnReg x y => [(x.val, 4), (y.val, 4)]
  | .shlReg x y => [(x.val, 4), (y.val, 4)]
  | .sneReg x y => [(x.val, 4), (y.val, 4)]
  | .ldI nnn => [(nnn.toNat, 12)]
  | .jpV0 nnn => [(nnn.toNat, 12)]
  | .rnd x nn => [(x.val, 4), (nn.toNat, 8)]
  | .drw x y n => [(x.val, 4), (y.val, 4), (n.toNat, 4)]
  | .skp x => [(x.val, 4)]
  | .sknp x => [(x.val, 4)]
  | .ldVxDt x => [(x.val, 4)]
  | .ldDtVx x => [(x.val, 4)]
  | .ldStVx x => [(x.val, 4)]
  | .addI x => [(x.val, 4)]
  | .ldVxK x => [(x.val, 4)]
  | .ldF x => [(x.val, 4)]
  | .ldB x => [(x.val, 4)]
  | .storeRegs x => [(x.val, 4)]
  | .loadRegs x => [(x.val, 4)]

/-- Every operand fits its field (R73). The types of `Instr` already guarantee it: see Laws/PerInstr.lean. -/
def Instr.wellFormed (i : Instr) : Bool := i.fields.all fun f => fieldFits f.1 f.2

/-- The row of R75 an instruction belongs to. -/
def Instr.row : Instr → OpcodeRow
  | .cls => ⟨"CLS", 0xFFFF#16, 0x00E0#16⟩
  | .ret => ⟨"RET", 0xFFFF#16, 0x00EE#16⟩
  | .jp _ => ⟨"JP_NNN", 0xF000#16, 0x1000#16⟩
  | .call _ => ⟨"CALL_NNN", 0xF000#16, 0x2000#16⟩
  | .seImm _ _ => ⟨"SE_VX_NN", 0xF000#16, 0x3000#16⟩
  | .sneImm _ _ => ⟨"SNE_VX_NN", 0xF000#16, 0x4000#16⟩
  | .seReg _ _ => ⟨"SE_VX_VY", 0xF00F#16, 0x5000#16⟩
  | .ldImm _ _ => ⟨"LD_VX_NN", 0xF000#16, 0x6000#16⟩
  | .addImm _ _ => ⟨"ADD_VX_NN", 0xF000#16, 0x7000#16⟩
  | .ldReg _ _ => ⟨"LD_VX_VY", 0xF00F#16, 0x8000#16⟩
  | .orReg _ _ => ⟨"OR_VX_VY", 0xF00F#16, 0x8001#16⟩
  | .andReg _ _ => ⟨"AND_VX_VY", 0xF00F#16, 0x8002#16⟩
  | .xorReg _ _ => ⟨"XOR_VX_VY", 0xF00F#16, 0x8003#16⟩
  | .addReg _ _ => ⟨"ADD_VX_VY", 0xF00F#16, 0x8004#16⟩
  | .subReg _ _ => ⟨"SUB_VX_VY", 0xF00F#16, 0x8005#16⟩
  | .shrReg _ _ => ⟨"SHR_VX_VY", 0xF00F#16, 0x8006#16⟩
  | .subnReg _ _ => ⟨"SUBN_VX_VY", 0xF00F#16, 0x8007#16⟩
  | .shlReg _ _ => ⟨"SHL_VX_VY", 0xF00F#16, 0x800E#16⟩
  | .sneReg _ _ => ⟨"SNE_VX_VY", 0xF00F#16, 0x9000#16⟩
  | .ldI _ => ⟨"LD_I_NNN", 0xF000#16, 0xA000#16⟩
  | .jpV0 _ => ⟨"JP_V0_NNN", 0xF000#16, 0xB000#16⟩
  | .rnd _ _ => ⟨"RND_VX_NN", 0xF000#16, 0xC000#16⟩
  | .drw _ _ _ => ⟨"DRW_VX_VY_N", 0xF000#16, 0xD000#16⟩
  | .skp _ => ⟨"SKP_VX", 0xF0FF#16, 0xE09E#16⟩
  | .sknp _ => ⟨"SKNP_VX", 0xF0FF#16, 0xE0A1#16⟩
  | .ldVxDt _ => ⟨"LD_VX_DT", 0xF0FF#16, 0xF007#16⟩
  | .ldDtVx _ => ⟨"LD_DT_VX", 0xF0FF#16, 0xF015#16⟩
  | .ldStVx _ => ⟨"LD_ST_VX", 0xF0FF#16, 0xF018#16⟩
  | .addI _ => ⟨"ADD_I_VX", 0xF0FF#16, 0xF01E#16⟩
  | .ldVxK _ => ⟨"LD_VX_K", 0xF0FF#16, 0xF00A#16⟩
  | .ldF _ => ⟨"LD_F_VX", 0xF0FF#16, 0xF029#16⟩
  | .ldB _ => ⟨"LD_B_VX", 0xF0FF#16, 0xF033#16⟩
  | .storeRegs _ => ⟨"LD_MEM_I_VX", 0xF0FF#16, 0xF055#16⟩
  | .loadRegs _ => ⟨"LD_VX_MEM_I", 0xF0FF#16, 0xF065#16⟩

/-- R232: the loader's one check on an image, its length. -/
def imageWellFormed (bytes : List Byte) : Bool := decide (bytes.length ≤ Config.progMaxLen)

end Sys2Proof
end

