-- ==== Sys2Proof/Machine/State.lean ====
section
/-! DEFINITION. The state of the CHIP-8 CORE (spec/10_state.md, all of it), its reset value, and the reasons a step
can stop. Plain data: two states can be compared and a state can be written out. -/

namespace Sys2Proof.Machine

/-- `MEM` as the sorted list of the bytes that differ from the reset contents (R38, log 5): addresses strictly
rising, all below 0x1000, no entry equal to what an unlisted address reads as. Operations in Machine/Ops.lean. -/
abbrev Memory := List Host.Cell

/-- `FB`: 32 rows, row 0 at the top; in a row the most significant bit is column 0, at the left (R39, R160, R166,
log 14). Pixels are read and written through Machine/Display.lean. -/
abbrev Screen := Vector (BitVec 64) 32

/-- The four kinds of fault (spec/60_exceptions.md R200). -/
inductive FaultKind where
  /-- The fetched word is no instruction (R201). -/
  | unimplementedOpcode
  /-- `2nnn` with sixteen return addresses on the stack (R202). -/
  | stackOverflow
  /-- `00EE` with an empty stack (R203). -/
  | stackUnderflow
  /-- A fetch or a data access above 0xFFF (R204). -/
  | outOfBoundsAccess
  deriving DecidableEq, Repr

/-- The record `FAULT = (kind, pc, op)` (R37); `op` is none after a failed fetch (R204). -/
structure FaultRecord where
  kind : FaultKind
  pc : Word
  op : Option Word
  deriving DecidableEq, Repr

/-- The machine's state: the spec's tuple (head of spec/10_state.md) and the model's own draw counter. -/
structure State where
  /-- `V0` .. `VF` (R20 to R23). -/
  v : Vector Byte 16
  /-- The index register `I` (R24). -/
  i : Word
  /-- The program counter `PC` (R25 to R27). -/
  pc : Word
  /-- The stack depth counter `SP`, 0 to 16 (R28, log 8). -/
  sp : BitVec 5
  /-- The return stack `STACK[0..15]` (R29). -/
  stack : Vector Word 16
  /-- `MEM` (R38). -/
  mem : Memory
  /-- The framebuffer `FB` (R39). -/
  fb : Screen
  /-- `DIRTY` (R33). -/
  dirty : Bool
  /-- The key snapshot `KEYS`, bit k for key k (R32). -/
  keys : Word
  /-- The delay timer `DT` (R30). -/
  dt : Byte
  /-- The sound timer `ST` (R31). -/
  st : Byte
  /-- `HALT` (R37). -/
  halt : Bool
  /-- `FAULT` (R37), meaningful only while `HALT` = 1. -/
  fault : FaultRecord
  /-- The MODEL's own: how many random bytes have been drawn (log 3). No claim rests on its value. -/
  draws : Nat
  deriving DecidableEq, Repr

/-- Why a step stops outside the spec. The spec's own four faults are no such stop: they are next states with
`HALT` set (R208, log 1). -/
inductive Fault where
  /-- Raised by `CALL nnn` with `SP` above 16 and by `RET` with `SP` above 16: stack slot 16 or above, which does
  not exist. R28: "The values 17..31 are never reached". Safe: the model stops where no machine can be (log 8). -/
  | stackDepthAboveSixteen
  deriving DecidableEq, Repr

/-- Why the model gives no meaning. -/
inductive Refusal where
  /-- An instruction without a meaning in this model. No arm of exec raises it: all 34 are modelled. Safe. -/
  | notModelled (mnemonic : String)
  /-- Raised by the `Load` event for an image longer than 0xE00 bytes, which the loader refuses outside the CORE
  (R232). Safe (log 9). -/
  | imageTooLong
  deriving DecidableEq, Repr

/-- The state after `Reset` (R34, R230). `fault` is unspecified there (log 2); `draws` is the model's own (log 3);
`MEM` holds its reset contents, so nothing is listed (log 5). -/
def State.reset : State where
  v := Vector.replicate 16 0x00#8
  i := 0x0000#16
  pc := Config.pcReset
  sp := 0#5
  stack := Vector.replicate 16 0x0000#16
  mem := []
  fb := Vector.replicate 32 0#64
  dirty := false
  keys := 0x0000#16
  dt := 0x00#8
  st := 0x00#8
  halt := false
  fault := ⟨.unimplementedOpcode, 0x0000#16, none⟩
  draws := 0

end Sys2Proof.Machine
end

