-- ==== Sys2Proof/Machine/Ops.lean ====
section
/-! DEFINITION. The named operations of the machine: bytes of `MEM` (spec/20_memory.md), one update per field of
the state, the next PC (spec/40_control_flow.md R101), the return stack, and entering a fault
(spec/60_exceptions.md R208). There is no return from a fault (R210): only the `Reset` event leaves it. -/

namespace Sys2Proof.Machine

/-! ### Memory -/

/-- The default `FONT`, glyphs 0 to 7 (R36; PRESUMED, log 4). -/
def fontLow : List Byte := [
  0xF0, 0x90, 0x90, 0x90, 0xF0,  0x20, 0x60, 0x20, 0x20, 0x70,
  0xF0, 0x10, 0xF0, 0x80, 0xF0,  0xF0, 0x10, 0xF0, 0x10, 0xF0,
  0x90, 0x90, 0xF0, 0x10, 0x10,  0xF0, 0x80, 0xF0, 0x10, 0xF0,
  0xF0, 0x80, 0xF0, 0x90, 0xF0,  0xF0, 0x10, 0x20, 0x40, 0x40]

/-- The default `FONT`, glyphs 8 to F (R36; PRESUMED, log 4). -/
def fontHigh : List Byte := [
  0xF0, 0x90, 0xF0, 0x90, 0xF0,  0xF0, 0x90, 0xF0, 0x10, 0xF0,
  0xF0, 0x90, 0xF0, 0x90, 0x90,  0xE0, 0x90, 0xE0, 0x90, 0xE0,
  0xF0, 0x80, 0x80, 0x80, 0xF0,  0xE0, 0x90, 0x90, 0x90, 0xE0,
  0xF0, 0x80, 0xF0, 0x80, 0xF0,  0xF0, 0x80, 0xF0, 0x80, 0x80]

/-- `FONT[0..79]`. -/
def font : List Byte := fontLow ++ fontHigh

/-- What an address that nothing has written reads as: the reset contents of `MEM`, the font at `FONT_BASE` and
zero elsewhere (R34, R38, log 5). -/
def resetByte (a : Nat) : Byte :=
  if Config.fontBase ≤ a ∧ a < Config.fontBase + Config.fontSize then font.getD (a - Config.fontBase) 0x00#8
  else 0x00#8

/-- An address that names a byte of `MEM` (R50). -/
abbrev Mapped (a : Nat) : Prop := a < Config.memSize

/-- `MEM[a]` (R51); the bounds check of an access stands in `fetch16` and `rangeOutOfBounds`. -/
def Memory.read : Memory → Nat → Byte
  | [], a => resetByte a
  | (k, b) :: m, a => if k = a then b else Memory.read m a

/-- `MEM[a] <- b` (R51), the bounds check apart as for `read`; it keeps the canonical form. -/
def Memory.write : Memory → Nat → Byte → Memory
  | [], a, b => if b = resetByte a then [] else [(a, b)]
  | (k, c) :: m, a, b =>
    if a < k then (if b = resetByte a then (k, c) :: m else (a, b) :: (k, c) :: m)
    else if a = k then (if b = resetByte a then m else (a, b) :: m)
    else (k, c) :: Memory.write m a b

/-- The bytes stored one after the other from address `a` up (R140). -/
def Memory.writeBlock : Memory → Nat → List Byte → Memory
  | m, _, [] => m
  | m, a, b :: bs => Memory.writeBlock (Memory.write m a b) (a + 1) bs

/-- The canonical form, for the entries at `lo` and above. -/
def Memory.wfFrom : Nat → Memory → Bool
  | _, [] => true
  | lo, (a, b) :: m => decide (lo ≤ a) && decide (Mapped a) && (b != resetByte a) && Memory.wfFrom (a + 1) m

/-- The canonical form of `MEM`: addresses strictly rising and below 0x1000, no entry equal to what an unlisted
address reads as. -/
def Memory.wf (m : Memory) : Bool := Memory.wfFrom 0 m

/-- `Fetch16(addr)`: big-endian, none when `addr + 1 > 0xFFF` (R52, R54). -/
def Memory.fetch16 (m : Memory) (a : Nat) : Option Word :=
  if a + 1 > 0xFFF then none else some (wordOfBytes (m.read a) (m.read (a + 1)))

/-- R51, R53: the range of `count` bytes from `base` leaves `MEM`. The addresses are unbounded integers (decision D27);
a range of no bytes cannot (decision D23). -/
def rangeOutOfBounds (base count : Nat) : Bool := decide (0 < count ∧ base + count - 1 > 0xFFF)

/-! ### One update per field -/

/-- `V[x] <- b` (R20). -/
def State.setReg (s : State) (x : Reg) (b : Byte) : State := { s with v := s.v.set x.val b x.isLt }

/-- `I <- w`. -/
def State.setI (s : State) (w : Word) : State := { s with i := w }

/-- `PC <- w`. -/
def State.setPc (s : State) (w : Word) : State := { s with pc := w }

/-- `SP <- d`. -/
def State.setSp (s : State) (d : BitVec 5) : State := { s with sp := d }

/-- `STACK[k] <- w`. -/
def State.setSlot (s : State) (k : Fin 16) (w : Word) : State := { s with stack := s.stack.set k.val w k.isLt }

/-- A new `MEM`. -/
def State.setMem (s : State) (m : Memory) : State := { s with mem := m }

/-- A new `FB`. -/
def State.setFb (s : State) (f : Screen) : State := { s with fb := f }

/-- `DIRTY <- d`. -/
def State.setDirty (s : State) (d : Bool) : State := { s with dirty := d }

/-- `KEYS <- k`. -/
def State.setKeys (s : State) (k : Word) : State := { s with keys := k }

/-- `DT <- b`. -/
def State.setDt (s : State) (b : Byte) : State := { s with dt := b }

/-- `ST <- b`. -/
def State.setSt (s : State) (b : Byte) : State := { s with st := b }

/-- The model's own: one more random byte drawn (log 3). -/
def State.countDraw (s : State) : State := { s with draws := s.draws + 1 }

/-! ### Reads -/

/-- `V[x]`. -/
def State.reg (s : State) (x : Reg) : Byte := s.v[x.val]'x.isLt

/-- `STACK[k]`. -/
def State.slot (s : State) (k : Fin 16) : Word := s.stack[k.val]'k.isLt

/-! ### The next PC -/

/-- R101: the default, `PC = pc0 + 2`. -/
def State.advance (s : State) : State := s.setPc (s.pc + 2#16)

/-- R111: `PC = pc0 + 4` when the condition holds, else `pc0 + 2`. -/
def State.skipIf (s : State) (c : Bool) : State := s.setPc (if c then s.pc + 4#16 else s.pc + 2#16)

/-! ### Faults -/

/-- TAKING A FAULT, the one operation for all four kinds and all sites (R208, log 1): `HALT` and `FAULT` are
written, `pc0` is the PC the step began with, and nothing else changes. -/
def State.raise (s : State) (kind : FaultKind) (op : Option Word) : State :=
  { s with halt := true, fault := ⟨kind, s.pc, op⟩ }

/-- The outcome of a step that faults on the instruction `i`: the record's `op` is the instruction's word
(R202 to R204, log 10). -/
def faultOn (kind : FaultKind) (i : Instr) (s : State) : Host.Outcome State Fault Refusal :=
  .next (s.raise kind (some (encode i)))

/-- R53, R204: an instruction whose data range is the `count` bytes from `I` up. The whole range is checked before
anything else happens; `done` is the state in which the instruction completes. -/
def withRange (i : Instr) (count : Nat) (s : State) (done : State) : Host.Outcome State Fault Refusal :=
  if rangeOutOfBounds s.i.toNat count then faultOn .outOfBoundsAccess i s else .next done

/-! ### The return stack -/

/-- Push and jump (R104): the store goes to the old depth, then the depth counts up. A depth above 16 is no depth
(log 8). -/
def pushAndJump (i : Instr) (ret target : Word) (s : State) : Host.Outcome State Fault Refusal :=
  if s.sp = 16#5 then faultOn .stackOverflow i s
  else if h : s.sp.toNat < Config.stackDepth then
    .next (((s.setSlot ⟨s.sp.toNat, h⟩ ret).setSp (s.sp + 1#5)).setPc target)
  else .fault .stackDepthAboveSixteen

/-- Pop into PC (R102): the depth counts down, then the slot at the new depth is read; the slot keeps its value
(R29). A depth above 16 is no depth (log 8). -/
def popAndJump (i : Instr) (s : State) : Host.Outcome State Fault Refusal :=
  if s.sp = 0#5 then faultOn .stackUnderflow i s
  else if h : (s.sp - 1#5).toNat < Config.stackDepth then
    .next ((s.setSp (s.sp - 1#5)).setPc (s.slot ⟨(s.sp - 1#5).toNat, h⟩))
  else .fault .stackDepthAboveSixteen

end Sys2Proof.Machine
end

