-- ==== Sys2Proof/Machine/Operands.lean ====
section
/-! DEFINITION. The operand forms: immediates, the registers an instruction reads, the block of registers `V0..Vx`,
addresses `I + k`, the key a register names. -/

namespace Sys2Proof.Machine

/-- R73: `nnn` meets a 16-bit register by zero extension. -/
def zextAddr (nnn : Addr12) : Word := nnn.setWidth 16

/-- A byte meets a 16-bit register by zero extension (R73, R142, R143). -/
def zextByte (b : Byte) : Word := b.setWidth 16

/-- `VF`, the flag register (R22). -/
def flagReg : Reg := 15

/-- `QUIRK_SHIFT_SOURCE` = `Vy` (R8, decision D8, log 13): what `8xy6` and `8xyE` shift. -/
def shiftSource (_x y : Reg) (s : State) : Byte := s.reg y

/-- `QUIRK_BNNN_REG` = `V0` (R8, decision D10, log 13): the register `Bnnn` adds. -/
def jumpReg (_nnn : Addr12) : Reg := 0

/-- R140: the address of byte `k` of a data access, an unbounded integer. -/
def dataAddr (s : State) (k : Nat) : Nat := s.i.toNat + k

/-- R145, R146: how many registers `V0..Vx` are. -/
def blockCount (x : Reg) : Nat := x.val + 1

/-- The values of `V0..Vx`, `V0` first (R145). -/
def regBlock (x : Reg) (s : State) : List Byte := s.v.toList.take (blockCount x)

/-- R146: register `k` for `k` up to `x` receives the byte at `I + k`; the registers above keep their values. -/
def loadedRegs (x : Reg) (s : State) : Vector Byte 16 :=
  Vector.ofFn fun k => if k.val ≤ x.val then s.mem.read (dataAddr s k.val) else s.reg k

/-- R144: the decimal digits of a byte, hundreds first, one byte each. -/
def bcdDigits (v : Byte) : List Byte := [v / 100#8, (v / 10#8) % 10#8, v % 10#8]

/-- R143: `FONT_BASE + 5 * v` on the whole 8-bit value (decision D11, log 12). -/
def fontAddr (v : Byte) : Word := BitVec.ofNat 16 (Config.fontBase + Config.fontGlyphBytes * v.toNat)

/-- R180: `pressed(k)`, bit `k` of the snapshot. -/
def pressed (keys : Word) (k : Nat) : Bool := keys.getLsbD k

/-- R180: the key a register's value names, its low four bits (decision D12, log 12). -/
def keyOf (b : Byte) : Nat := b.toNat % 16

/-- R183: the least pressed key; none exactly when no key is pressed (decision D13, log 11). -/
def lowestKey (keys : Word) : Option Nat := (List.range 16).find? (pressed keys)

end Sys2Proof.Machine
end

