-- ==== Sys2Proof/Machine/ControlFlow.lean ====
section
/-! DEFINITION. The eight control transfers of spec/40_control_flow.md. -/

namespace Sys2Proof.Machine

/-- `00EE`, RET (R102). -/
def execRet (s : State) : Host.Outcome State Fault Refusal := popAndJump .ret s

/-- `1nnn`, JP nnn (R103). -/
def execJp (nnn : Addr12) (s : State) : Host.Outcome State Fault Refusal := .next (s.setPc (zextAddr nnn))

/-- `2nnn`, CALL nnn (R104): the return address is `pc0 + 2`. -/
def execCall (nnn : Addr12) (s : State) : Host.Outcome State Fault Refusal :=
  pushAndJump (.call nnn) (s.pc + 2#16) (zextAddr nnn) s

/-- `3xnn`, SE Vx, nn (R105). -/
def execSeImm (x : Reg) (nn : Byte) (s : State) : Host.Outcome State Fault Refusal :=
  .next (s.skipIf (s.reg x == nn))

/-- `4xnn`, SNE Vx, nn (R106). -/
def execSneImm (x : Reg) (nn : Byte) (s : State) : Host.Outcome State Fault Refusal :=
  .next (s.skipIf (s.reg x != nn))

/-- `5xy0`, SE Vx, Vy (R107). -/
def execSeReg (x y : Reg) (s : State) : Host.Outcome State Fault Refusal :=
  .next (s.skipIf (s.reg x == s.reg y))

/-- `9xy0`, SNE Vx, Vy (R108). -/
def execSneReg (x y : Reg) (s : State) : Host.Outcome State Fault Refusal :=
  .next (s.skipIf (s.reg x != s.reg y))

/-- `Bnnn`, JP V0, nnn (R109): the sum is kept in 16 bits, not reduced to 12 (decision D10). -/
def execJpV0 (nnn : Addr12) (s : State) : Host.Outcome State Fault Refusal :=
  .next (s.setPc (zextAddr nnn + zextByte (s.reg (jumpReg nnn))))

end Sys2Proof.Machine
end

