-- ==== Sys2Proof/Machine/Flags.lean ====
section
/-! DEFINITION. The flag computations (spec/10_state.md R22, spec/41_register_alu.md R120) and the order in which a
result and a flag are written (R23, R133). The flag is always 0 or 1. -/

namespace Sys2Proof.Machine

/-- A flag as the byte `VF` receives. -/
def flagByte (c : Bool) : Byte := if c then 0x01#8 else 0x00#8

/-- R127: 1 exactly when the unsigned sum exceeds 255. -/
def carryFlag (a b : Byte) : Bool := decide (a.toNat + b.toNat > 255)

/-- R128, R130: "no borrow", 1 exactly when minuend >= subtrahend. -/
def noBorrowFlag (minuend subtrahend : Byte) : Bool := decide (minuend.toNat ≥ subtrahend.toNat)

/-- R129: the bit a right shift moves out. -/
def shiftOutRight (b : Byte) : Bool := b.getLsbD 0

/-- R131: the bit a left shift moves out. -/
def shiftOutLeft (b : Byte) : Bool := b.getLsbD 7

/-- R133: `V[x]` is written first and `VF` second, so with `x` = 0xF the flag stays (decision D7, log 13). -/
def State.setRegAndFlag (s : State) (x : Reg) (result : Byte) (c : Bool) : State :=
  (s.setReg x result).setReg flagReg (flagByte c)

/-- `QUIRK_FX1E_VF` = off (R8, R142, decision D9, log 13): `Fx1E` writes no flag. -/
def State.setIndexSum (s : State) (sum : Word) : State := s.setI sum

end Sys2Proof.Machine
end

