-- ==== Sys2Proof/Machine/Display.lean ====
section
/-! DEFINITION. The framebuffer and the two instructions of spec/43_display.md. -/

namespace Sys2Proof.Machine

/-- `FB[y][x]` (R39): column 0 is the most significant bit of its row. -/
def Screen.pixel (f : Screen) (y : Fin 32) (x : Fin 64) : Bool := (f[y.val]'y.isLt).getMsbD x.val

/-- The row that has only the pixel of column `x` on. -/
def columnMask (x : Fin 64) : BitVec 64 := BitVec.twoPow 64 (63 - x.val)

/-- `FB[y][x] <- FB[y][x] ^ bit`. -/
def Screen.xorPixel (f : Screen) (y : Fin 32) (x : Fin 64) (bit : Bool) : Screen :=
  f.set y.val ((f[y.val]'y.isLt) ^^^ (if bit then columnMask x else 0#64)) y.isLt

/-- Every pixel 0. -/
def blankScreen : Screen := Vector.replicate 32 0#64

/-- `FB[y][x]` of the machine. -/
def State.pixel (s : State) (y : Fin 32) (x : Fin 64) : Bool := Screen.pixel s.fb y x

/-- Bit `7 - c` of a sprite byte: `c` = 0 is the leftmost pixel (R162). -/
def spriteBit (b : Byte) (c : Nat) : Bool := b.getLsbD (7 - c)

/-- Column `x0 + c`, wrapped (R162). -/
def wrapColumn (x0 c : Nat) : Fin 64 := Fin.ofNat 64 (x0 + c)

/-- Row `y0 + r`, wrapped (R162). -/
def wrapRow (y0 r : Nat) : Fin 32 := Fin.ofNat 32 (y0 + r)

/-- One pixel of a draw, on the screen and the collision bit so far (R162, R163): a collision is an old pixel 1
under a source bit 1. -/
def drawPixel (b : Byte) (x0 : Nat) (py : Fin 32) (acc : Screen × Bool) (c : Nat) : Screen × Bool :=
  (Screen.xorPixel acc.1 py (wrapColumn x0 c) (spriteBit b c),
    acc.2 || (spriteBit b c && Screen.pixel acc.1 py (wrapColumn x0 c)))

/-- One sprite row: its eight bits, leftmost first. -/
def drawRow (b : Byte) (x0 : Nat) (py : Fin 32) (acc : Screen × Bool) : Screen × Bool :=
  (List.range 8).foldl (drawPixel b x0 py) acc

/-- The sprite: `n` rows from address `base` up, top row first (R162). -/
def drawSprite (m : Memory) (base x0 y0 n : Nat) (f : Screen) : Screen × Bool :=
  (List.range n).foldl (fun acc r => drawRow (m.read (base + r)) x0 (wrapRow y0 r) acc) (f, false)

/-- The screen and the collision bit after `Dxyn` (R162): the start wraps too. -/
def drawn (x y : Reg) (n : BitVec 4) (s : State) : Screen × Bool :=
  drawSprite s.mem (dataAddr s 0) ((s.reg x).toNat % 64) ((s.reg y).toNat % 32) n.toNat s.fb

/-- R164: `Dxyn` marks the display dirty when it has at least one row (decision D15, log 13). -/
def dirtyAfterDraw (n : BitVec 4) (s : State) : Bool := s.dirty || decide (0 < n.toNat)

/-- `00E0`, CLS (R161). -/
def execCls (s : State) : Host.Outcome State Fault Refusal := .next ((s.setFb blankScreen).setDirty true).advance

/-- `Dxyn`, DRW Vx, Vy, n (R162): coordinates are read before `VF` is written; with `n` = 0 nothing is drawn and
`VF` is 0 (decision D23). -/
def execDrw (x y : Reg) (n : BitVec 4) (s : State) : Host.Outcome State Fault Refusal :=
  withRange (.drw x y n) n.toNat s
    (((s.setFb (drawn x y n s).1).setReg flagReg (flagByte (drawn x y n s).2)).setDirty
      (dirtyAfterDraw n s)).advance

end Sys2Proof.Machine
end

