-- ==== Sys2Proof/Machine/IndexMemory.lean ====
section
/-! DEFINITION. The six instructions of spec/42_index_memory.md. `I` is changed by none of the memory instructions
(R140, decision D22). -/

namespace Sys2Proof.Machine

/-- `Annn`, LD I, nnn (R141). -/
def execLdI (nnn : Addr12) (s : State) : Host.Outcome State Fault Refusal := .next (s.setI (zextAddr nnn)).advance

/-- `Fx1E`, ADD I, Vx (R142): modulo 65536; `VF` is not written. -/
def execAddI (x : Reg) (s : State) : Host.Outcome State Fault Refusal :=
  .next (s.setIndexSum (s.i + zextByte (s.reg x))).advance

/-- `Fx29`, LD F, Vx (R143). -/
def execLdF (x : Reg) (s : State) : Host.Outcome State Fault Refusal := .next (s.setI (fontAddr (s.reg x))).advance

/-- `Fx33`, LD B, Vx (R144). -/
def execLdB (x : Reg) (s : State) : Host.Outcome State Fault Refusal :=
  withRange (.ldB x) 3 s (s.setMem (s.mem.writeBlock (dataAddr s 0) (bcdDigits (s.reg x)))).advance

/-- `Fx55`, LD [I], Vx (R145). -/
def execStoreRegs (x : Reg) (s : State) : Host.Outcome State Fault Refusal :=
  withRange (.storeRegs x) (blockCount x) s
    (s.setMem (s.mem.writeBlock (dataAddr s 0) (regBlock x s))).advance

/-- `V <- v`, all sixteen registers at once. -/
def State.setRegs (s : State) (v : Vector Byte 16) : State := { s with v := v }

/-- `Fx65`, LD Vx, [I] (R146). -/
def execLoadRegs (x : Reg) (s : State) : Host.Outcome State Fault Refusal :=
  withRange (.loadRegs x) (blockCount x) s (s.setRegs (loadedRegs x s)).advance

end Sys2Proof.Machine
end

