-- ==== Sys2Proof/Machine/InputTimers.lean ====
section
/-! DEFINITION. The keypad and timer instructions of spec/44_input_timers.md. None can fault. -/

namespace Sys2Proof.Machine

/-- `Ex9E`, SKP Vx (R181). -/
def execSkp (x : Reg) (s : State) : Host.Outcome State Fault Refusal :=
  .next (s.skipIf (pressed s.keys (keyOf (s.reg x))))

/-- `ExA1`, SKNP Vx (R182). -/
def execSknp (x : Reg) (s : State) : Host.Outcome State Fault Refusal :=
  .next (s.skipIf (!pressed s.keys (keyOf (s.reg x))))

/-- `Fx0A`, LD Vx, K (R183): with no key pressed nothing changes, `PC` included, and the next step runs it again. -/
def execLdVxK (x : Reg) (s : State) : Host.Outcome State Fault Refusal :=
  match lowestKey s.keys with
  | none => .next s
  | some k => .next (s.setReg x (BitVec.ofNat 8 k)).advance

/-- `Fx07`, LD Vx, DT (R184). -/
def execLdVxDt (x : Reg) (s : State) : Host.Outcome State Fault Refusal := .next (s.setReg x s.dt).advance

/-- `Fx15`, LD DT, Vx (R185). -/
def execLdDtVx (x : Reg) (s : State) : Host.Outcome State Fault Refusal := .next (s.setDt (s.reg x)).advance

/-- `Fx18`, LD ST, Vx (R186). -/
def execLdStVx (x : Reg) (s : State) : Host.Outcome State Fault Refusal := .next (s.setSt (s.reg x)).advance

end Sys2Proof.Machine
end

