-- ==== Sys2Proof/Machine/RegisterAlu.lean ====
section
/-! DEFINITION. The twelve instructions of spec/41_register_alu.md. None can fault; all end at `pc0 + 2` (R101). -/

namespace Sys2Proof.Machine

/-- `6xnn`, LD Vx, nn (R121). -/
def execLdImm (x : Reg) (nn : Byte) (s : State) : Host.Outcome State Fault Refusal :=
  .next (s.setReg x nn).advance

/-- `7xnn`, ADD Vx, nn (R122): the carry is discarded. -/
def execAddImm (x : Reg) (nn : Byte) (s : State) : Host.Outcome State Fault Refusal :=
  .next (s.setReg x (s.reg x + nn)).advance

/-- `8xy0`, LD Vx, Vy (R123). -/
def execLdReg (x y : Reg) (s : State) : Host.Outcome State Fault Refusal :=
  .next (s.setReg x (s.reg y)).advance

/-- `8xy1`, OR Vx, Vy (R124). -/
def execOrReg (x y : Reg) (s : State) : Host.Outcome State Fault Refusal :=
  .next (s.setReg x (s.reg x ||| s.reg y)).advance

/-- `8xy2`, AND Vx, Vy (R125). -/
def execAndReg (x y : Reg) (s : State) : Host.Outcome State Fault Refusal :=
  .next (s.setReg x (s.reg x &&& s.reg y)).advance

/-- `8xy3`, XOR Vx, Vy (R126). -/
def execXorReg (x y : Reg) (s : State) : Host.Outcome State Fault Refusal :=
  .next (s.setReg x (s.reg x ^^^ s.reg y)).advance

/-- `8xy4`, ADD Vx, Vy (R127). -/
def execAddReg (x y : Reg) (s : State) : Host.Outcome State Fault Refusal :=
  .next (s.setRegAndFlag x (s.reg x + s.reg y) (carryFlag (s.reg x) (s.reg y))).advance

/-- `8xy5`, SUB Vx, Vy (R128). -/
def execSubReg (x y : Reg) (s : State) : Host.Outcome State Fault Refusal :=
  .next (s.setRegAndFlag x (s.reg x - s.reg y) (noBorrowFlag (s.reg x) (s.reg y))).advance

/-- `8xy6`, SHR Vx, Vy (R129). -/
def execShrReg (x y : Reg) (s : State) : Host.Outcome State Fault Refusal :=
  .next (s.setRegAndFlag x (shiftSource x y s >>> 1) (shiftOutRight (shiftSource x y s))).advance

/-- `8xy7`, SUBN Vx, Vy (R130): the minuend is `Vy`. -/
def execSubnReg (x y : Reg) (s : State) : Host.Outcome State Fault Refusal :=
  .next (s.setRegAndFlag x (s.reg y - s.reg x) (noBorrowFlag (s.reg y) (s.reg x))).advance

/-- `8xyE`, SHL Vx, Vy (R131). -/
def execShlReg (x y : Reg) (s : State) : Host.Outcome State Fault Refusal :=
  .next (s.setRegAndFlag x (shiftSource x y s <<< 1) (shiftOutLeft (shiftSource x y s))).advance

/-- `Cxnn` with the step's draw `r` (R132). -/
def rndWith (r : Byte) (x : Reg) (nn : Byte) (s : State) : State := ((s.setReg x (r &&& nn)).countDraw).advance

/-- `Cxnn`, RND Vx, nn (R132): the draw is a free value (log 3). -/
def execRnd (x : Reg) (nn : Byte) (s : State) : Host.Outcome State Fault Refusal :=
  .next (rndWith (Config.draw s.draws) x nn s)

end Sys2Proof.Machine
end

