-- ==== Sys2Proof/Machine/Step.lean ====
section
/-! DEFINITION. The `Step` event (spec/40_control_flow.md R100): fetch, decode, execute. Everything it calls stands
in Decode.lean and Machine/. -/

namespace Sys2Proof.Machine

/-- One `Step`. While `HALT` = 1 nothing changes (R210). The fetch fault comes first, then the decode fault, then
the instruction's own (R207). -/
def step (s : State) : Host.Outcome State Fault Refusal :=
  if s.halt then .next s
  else match s.mem.fetch16 s.pc.toNat with
    | none => .next (s.raise .outOfBoundsAccess none)
    | some w =>
      match decode w with
      | .error _ => .next (s.raise .unimplementedOpcode (some w))
      | .ok i => exec i s

/-- The machine with the instruction word `w` of the table placed where the next `Step` fetches: the two bytes at
`PC`, the machine not halted (log 7). A word that does not fit below 0x1000 is not placed. -/
def State.withFetchWord (s : State) (nbits w : Nat) : State :=
  if s.pc.toNat + 1 > 0xFFF then s
  else { s with
    mem := s.mem.writeBlock s.pc.toNat (bytesOfWord (tableWord nbits w))
    halt := false }

end Sys2Proof.Machine
end

