-- ==== Sys2Proof/Machine/Events.lean ====
section
/-! DEFINITION. The other events of spec/00_scope.md R4, the schedules the host may choose (R5, R233), and the
CORE's outputs (spec/60_exceptions.md R214). `Step` is Machine/Step.lean's `step`. -/

namespace Sys2Proof.Machine

/-- `Reset` (R230): every piece of state at its reset value; the only way out of `HALT` = 1. The model's own draw
counter runs on, so that no byte is drawn twice (log 3). -/
def State.resetEvent (s : State) : State := { State.reset with draws := s.draws }

/-- `Load(bytes)` (R232): the image copied verbatim to 0x200 and up. -/
def State.load (s : State) (bytes : List Byte) : State := s.setMem (s.mem.writeBlock Config.progBase bytes)

/-- A timer's decrement, floored at 0 (R187). -/
def countDown (b : Byte) : Byte := if b = 0x00#8 then b else b - 0x01#8

/-- `Tick` (R187), also while `HALT` = 1 (decision D21). -/
def State.tick (s : State) : State := (s.setDt (countDown s.dt)).setSt (countDown s.st)

/-- `TakeDirty` (R165): the result and the state after it. -/
def State.takeDirty (s : State) : Bool × State := (s.dirty, s.setDirty false)

/-- The six events (R4). The draw of `Step(r)` is the free value of log 3. -/
inductive Event where
  | reset
  | load (bytes : List Byte)
  | setKeys (k : Word)
  | step
  | tick
  | takeDirty
  deriving DecidableEq, Repr

/-- One event. A `Load` of too long an image is refused by the loader (R232, log 9). -/
def Event.apply (e : Event) (s : State) : Host.Outcome State Fault Refusal :=
  match e with
  | .reset => .next s.resetEvent
  | .load bytes => if imageWellFormed bytes then .next (s.load bytes) else .refused .imageTooLong
  | .setKeys k => .next (s.setKeys k)
  | .step => Sys2Proof.Machine.step s
  | .tick => .next s.tick
  | .takeDirty => .next s.takeDirty.2

/-- A sequence of events, in any order (R5). -/
def runEvents : List Event → State → Host.Outcome State Fault Refusal
  | [], s => .next s
  | e :: es, s =>
    match e.apply s with
    | .next t => runEvents es t
    | .fault r => .fault r
    | .refused r => .refused r

/-- Where the host is in its order of actions (R233). -/
inductive Phase where
  /-- Nothing but `Reset` may come. -/
  | beforeReset
  /-- `Load` may come. -/
  | loading
  /-- `Load` may come no more before the next `Reset` (decision D28). -/
  | running
  deriving DecidableEq, Repr

/-- The host's duty (R233, R61, log 9): `Reset`, then `Load`, then any interleaving of the other four, until the
next `Reset`. -/
def scheduleOk : Phase → List Event → Bool
  | _, [] => true
  | _, .reset :: es => scheduleOk .loading es
  | .loading, .load bytes :: es => imageWellFormed bytes && scheduleOk .running es
  | .running, .setKeys _ :: es => scheduleOk .running es
  | .running, .step :: es => scheduleOk .running es
  | .running, .tick :: es => scheduleOk .running es
  | .running, .takeDirty :: es => scheduleOk .running es
  | _, _ :: _ => false

/-! ### Outputs -/

/-- `sound_on` (R188, decision D29, log 19). -/
def State.soundOn (s : State) : Bool := s.st != 0x00#8

/-- Byte `k` of the frame read-out: 8 bytes per row, the leftmost pixel the most significant bit (R166, decision
D16, log 14). -/
def State.frameByte (s : State) (k : Fin 256) : Byte :=
  (s.fb[k.val / 8]'(by omega)).extractLsb' (56 - 8 * (k.val % 8)) 8

/-- The code of a fault kind (R200). -/
def FaultKind.code : FaultKind → BitVec 2
  | .unimplementedOpcode => 0#2
  | .stackOverflow => 1#2
  | .stackUnderflow => 2#2
  | .outOfBoundsAccess => 3#2

end Sys2Proof.Machine
end

