-- ==== Sys2Proof/Safety.lean ====
section
/-! DEFINITION. The terms claims use: the invariant of every reachable state (spec/10_state.md R35), what counts as
a safe and as an ended run, and the observable parts of the machine by which a frame is stated. -/

namespace Sys2Proof.Machine

/-- A run that has not failed: "A state with `HALT` = 1 is a failed run, never a finished one" (R240). -/
abbrev Safe (s : State) : Prop := s.halt = false

/-- R240 (the spec's examples' end state, decision D24): not halted, and the word at `PC` jumps to `PC`. -/
abbrev Ended (s : State) : Prop :=
  s.halt = false ∧ s.pc.toNat ≤ 0xFFE ∧ s.mem.fetch16 s.pc.toNat = some (packNNN 0x1#4 (s.pc.setWidth 12))

/-- R35 and R208: the memory is in canonical form; `SP` is at most 16; `PC` at most 0x10FE; every stack slot at most
0x1000; a halted machine stands at the instruction its record names. -/
abbrev State.Inv (s : State) : Prop :=
  s.mem.wf = true ∧ s.sp.toNat ≤ 16 ∧ s.pc.toNat ≤ 0x10FE ∧ (∀ k : Fin 16, (s.slot k).toNat ≤ 0x1000) ∧
    (s.halt = true → s.fault.pc = s.pc)

/-- An observable part of the machine: each register, slot, byte and pixel by itself. -/
inductive Part where
  | reg (x : Reg)
  | index
  | pc
  | depth
  | slot (k : Fin 16)
  | byte (a : Nat)
  | pixel (y : Fin 32) (x : Fin 64)
  | dirty
  | keys
  | delay
  | sound
  | halt
  | fault
  | draws
  deriving DecidableEq, Repr

/-- The part reads the same in both states; a byte of memory through the machine's own read. -/
def Part.Same (s t : State) : Part → Prop
  | .reg x => t.reg x = s.reg x
  | .index => t.i = s.i
  | .pc => t.pc = s.pc
  | .depth => t.sp = s.sp
  | .slot k => t.slot k = s.slot k
  | .byte a => t.mem.read a = s.mem.read a
  | .pixel y x => t.pixel y x = s.pixel y x
  | .dirty => t.dirty = s.dirty
  | .keys => t.keys = s.keys
  | .delay => t.dt = s.dt
  | .sound => t.st = s.st
  | .halt => t.halt = s.halt
  | .fault => t.fault = s.fault
  | .draws => t.draws = s.draws

/-- The frame: every part outside `may` reads in `t` as it read in `s`. -/
def Unchanged (may : Part → Prop) (s t : State) : Prop := ∀ p : Part, ¬ may p → p.Same s t

/-- The outcome is the fault `kind` on the instruction `i` (R208): a next state with `HALT` set and the record
written, everything else unchanged. -/
def FaultsWith (kind : FaultKind) (i : Instr) (s : State) (o : Host.Outcome State Fault Refusal) : Prop :=
  ∃ t, o = .next t ∧ t.halt = true ∧ t.fault = ⟨kind, s.pc, some (encode i)⟩ ∧
    Unchanged (fun p => p = .halt ∨ p = .fault) s t

end Sys2Proof.Machine
end

