-- ==== Sys2Proof/Certificates/Slice0/Obligations.lean ====
section
/-! DEFINITION. The statements for the provers, from the numbered rules of spec/. A result is stated in integers, as the
spec's pseudocode computes it, or on the observable parts of the machine; a frame is `Unchanged` over the parts an
instruction may change (Safety.lean). Statements about a data store take the memory's canonical form as a premise: the
list form has states that no run reaches, and `StepKeepsInvariant` rules them out. -/

open Sys2Proof Sys2Proof.Machine

/-! ### Terms of the statements -/

namespace Sys2Proof.Claims

/-- The outcome with `f` applied to its next state. -/
def mapNext (f : State → State) : Host.Outcome State Fault Refusal → Host.Outcome State Fault Refusal
  | .next t => .next (f t)
  | .fault r => .fault r
  | .refused r => .refused r

/-- The word at `a`, `a + 1` as R52 computes it. -/
def wordAt (s : State) (a : Nat) : Word :=
  BitVec.ofNat 16 ((s.mem.read a).toNat * 256 + (s.mem.read (a + 1)).toNat)

/-- The pixel the sprite of `Dxyn` has at column `px`, row `py` of the screen: row `r` and column `c` of the sprite are the
distances from the start position, wrapped; outside the sprite there is none (R162). -/
def spritePixel (x y : Reg) (n : BitVec 4) (s : State) (py : Fin 32) (px : Fin 64) : Prop :=
  ∃ r c : Nat, r < n.toNat ∧ c < 8 ∧ ((s.reg y).toNat % 32 + r) % 32 = py.val ∧
    ((s.reg x).toNat % 64 + c) % 64 = px.val ∧ (s.mem.read (s.i.toNat + r)).toNat / 2 ^ (7 - c) % 2 = 1

/-- The instruction's data range leaves `MEM`: the four data sites of R204. -/
def dataFault (i : Instr) (s : State) : Prop :=
  (∃ x y n, i = .drw x y n ∧ 0 < n.toNat ∧ s.i.toNat + n.toNat - 1 > 0xFFF) ∨
  (∃ x, i = .ldB x ∧ s.i.toNat + 2 > 0xFFF) ∨
  (∃ x : Reg, i = .storeRegs x ∧ s.i.toNat + x.val > 0xFFF) ∨
  (∃ x : Reg, i = .loadRegs x ∧ s.i.toNat + x.val > 0xFFF)

/-- The register an instruction names as the destination of its result (R22: "Any instruction writes VF as its
destination when its `x` field is 0xF"). -/
def destination : Instr → Option Reg
  | .ldImm x _ | .addImm x _ | .ldReg x _ | .orReg x _ | .andReg x _ | .xorReg x _ => some x
  | .rnd x _ | .ldVxDt x | .ldVxK x | .loadRegs x => some x
  | _ => none

/-- The instructions that write `VF` as a flag: the table of R22. -/
def writesFlag : Instr → Bool
  | .addReg _ _ | .subReg _ _ | .shrReg _ _ | .subnReg _ _ | .shlReg _ _ | .drw _ _ _ => true
  | _ => false

/-- The instruction a step of `s` executes: the machine runs, and the word at `PC` is there and decodes to it (R100). -/
def runs (s : State) (i : Instr) : Prop :=
  s.halt = false ∧ s.pc.toNat + 1 ≤ 0xFFF ∧ decode (wordAt s s.pc.toNat) = .ok i

/-- No Step of this sequence of events, run from `s`, executes a `bad` instruction. -/
def avoids (bad : Instr → Prop) : List Event → State → Prop
  | [], _ => True
  | e :: es, s => (e = .step → ∀ i, runs s i → ¬ bad i) ∧ ∀ t, e.apply s = .next t → avoids bad es t

/-- Operand fields laid one after the other from bit `top - 1` down (R71, R72). -/
def operandBits : Nat → List (Nat × Nat) → Nat
  | _, [] => 0
  | top, (value, width) :: fs => value * 2 ^ (top - width) + operandBits (top - width) fs

end Sys2Proof.Claims

open Sys2Proof.Claims

/-! ### Encoding (30_encoding.md) -/

/-- Every instruction, with every operand at every value, decodes back from its word. -/
def Obligations.DecodeOfEncode : Prop :=
  ∀ i : Instr, decode (encode i) = .ok i

/-- A word that decodes is the one word of its instruction, so the `op` a fault records is the fetched word (log 10). Rests
on decision D26 (strict nibbles, log 13). -/
def Obligations.EncodeOfDecode : Prop :=
  ∀ (w : Word) (i : Instr), decode w = .ok i → encode i = w

/-- R71, R72, R74: the instruction selected is the row with `op & mask = match`, its operands are the word's fields below the
major nibble, first field highest, and a word with such a row is selected. Rests on decision D26 (strict nibbles,
log 13). -/
def Obligations.DecodeFollowsOpcodeTable : Prop :=
  ∀ w : Word,
    (∀ i, decode w = .ok i → i.row ∈ opcodeRows ∧ i.row.accepts w = true ∧
      w.toNat = i.row.value.toNat + operandBits 12 i.fields) ∧
    (∀ r ∈ opcodeRows, r.accepts w = true → ∃ i, decode w = .ok i ∧ i.row = r)

/-- R74: "The rows are pairwise disjoint (no word matches two rows)". -/
def Obligations.OpcodeRowsAreDisjoint : Prop :=
  ∀ (w : Word) (r r' : OpcodeRow), r ∈ opcodeRows → r' ∈ opcodeRows →
    r.accepts w = true → r'.accepts w = true → r = r'

/-- R76: the illegal words, major by major, are refused by name, and no other word is. That fixed nibbles
match exactly is decision D26 (log 13). -/
def Obligations.IllegalWordsAreRefused : Prop :=
  ∀ w : Word, decode w = .error (.unmatchedPattern w) ↔
    (w.toNat / 4096 = 0x0 ∧ w.toNat % 4096 ≠ 0x0E0 ∧ w.toNat % 4096 ≠ 0x0EE) ∨
    ((w.toNat / 4096 = 0x5 ∨ w.toNat / 4096 = 0x9) ∧ w.toNat % 16 ≠ 0) ∨
    (w.toNat / 4096 = 0x8 ∧ w.toNat % 16 ∈ [0x8, 0x9, 0xA, 0xB, 0xC, 0xD, 0xF]) ∨
    (w.toNat / 4096 = 0xE ∧ w.toNat % 256 ∉ [0x9E, 0xA1]) ∨
    (w.toNat / 4096 = 0xF ∧ w.toNat % 256 ∉ [0x07, 0x0A, 0x15, 0x18, 0x1E, 0x29, 0x33, 0x55, 0x65])

/-- A few words written out bit by bit from R75 (95_test_vectors.md, "Decode spot checks"), one per family. -/
def Obligations.SampleWordsDecode : Prop :=
  decode 0b0010101010111100#16 = .ok (.call 0xABC#12) ∧
  decode 0b0111101000010010#16 = .ok (.addImm 0xA 0x12#8) ∧
  decode 0b1000101010110100#16 = .ok (.addReg 0xA 0xB) ∧
  decode 0b1010101010111100#16 = .ok (.ldI 0xABC#12) ∧
  decode 0b1101101010110101#16 = .ok (.drw 0xA 0xB 5#4) ∧
  decode 0b1110101010100001#16 = .ok (.sknp 0xA) ∧
  decode 0b1111101001010101#16 = .ok (.storeRegs 0xA)

/-- R54, R70: two bytes make one word, the byte at the lower address the high half; the rest is left over; fewer than two
bytes are no instruction. -/
def Obligations.BytesDecodeBigEndian : Prop :=
  (∀ (hi lo : Byte) (rest : List Byte), decodeBytes (hi :: lo :: rest) =
    (decode (BitVec.ofNat 16 (hi.toNat * 256 + lo.toNat))).map fun i => (i, rest)) ∧
  decodeBytes [] = .error .tooShort ∧ ∀ b : Byte, decodeBytes [b] = .error .tooShort

/-! ### The step (40_control_flow.md section 1) -/

/-- R52: the fetched word is big-endian; there is none from 0xFFF up, so 0xFFE is the highest address. -/
def Obligations.FetchReadsBigEndianWord : Prop :=
  ∀ (m : Memory) (a : Nat),
    (a + 1 > 0xFFF → m.fetch16 a = none) ∧
    (a + 1 ≤ 0xFFF → ∃ w, m.fetch16 a = some w ∧ w.toNat = (m.read a).toNat * 256 + (m.read (a + 1)).toNat)

/-- R100: when the bytes at `PC` decode to `i`, a step of a running machine is `i` executed at that state, `PC` still at the
instruction; nothing stands around it. (Every `Instr` is well formed: Laws/PerInstr.lean.) -/
def Obligations.StepRunsTheFetchedInstruction : Prop :=
  ∀ (s : State) (i : Instr), s.halt = false → s.pc.toNat + 1 ≤ 0xFFF →
    decodeBytes [s.mem.read s.pc.toNat, s.mem.read (s.pc.toNat + 1)] = .ok (i, []) → step s = exec i s

/-- R100, R204, R207, R208, R210: a halted machine's step changes nothing; a fetch above 0xFFE faults with no word, before a
word is decoded; an illegal word faults with that word. Rests on decisions D3 and D4 (log 1). -/
def Obligations.StepHaltsOrFaultsBeforeExecuting : Prop :=
  (∀ s : State, s.halt = true → step s = .next s) ∧
  (∀ s : State, s.halt = false → s.pc.toNat + 1 > 0xFFF →
    ∃ t, step s = .next t ∧ t.halt = true ∧ t.fault = ⟨.outOfBoundsAccess, s.pc, none⟩ ∧
      Unchanged (fun p => p = .halt ∨ p = .fault) s t) ∧
  (∀ s : State, s.halt = false → s.pc.toNat + 1 ≤ 0xFFF →
    decode (wordAt s s.pc.toNat) = .error (.unmatchedPattern (wordAt s s.pc.toNat)) →
    ∃ t, step s = .next t ∧ t.halt = true ∧
      t.fault = ⟨.unimplementedOpcode, s.pc, some (wordAt s s.pc.toNat)⟩ ∧
      Unchanged (fun p => p = .halt ∨ p = .fault) s t)

/-! ### Control transfer (40_control_flow.md) -/

/-- R103: JP nnn, with its word. -/
def Obligations.JumpSetsProgramCounter : Prop :=
  ∀ (nnn : Addr12) (s : State), (encode (.jp nnn)).toNat = 0x1000 + nnn.toNat ∧ ∃ t, exec (.jp nnn) s = .next t ∧
    t.pc.toNat = nnn.toNat ∧ Unchanged (· = .pc) s t

/-- R109: JP V0, nnn; the sum is not reduced to 12 bits. Rests on decision D10 (log 13). -/
def Obligations.JumpAddsRegisterZero : Prop :=
  ∀ (nnn : Addr12) (s : State), ∃ t, exec (.jpV0 nnn) s = .next t ∧
    t.pc.toNat = nnn.toNat + (s.reg 0).toNat ∧ Unchanged (· = .pc) s t

/-- R104: CALL nnn stores `pc0 + 2` in the slot at the old depth and counts up; with sixteen addresses on the stack it faults
and writes no slot. The fault's record rests on decision D3 (log 1), the widths on D6. -/
def Obligations.CallPushesAndJumps : Prop :=
  (∀ (nnn : Addr12) (s : State), s.sp.toNat < 16 → ∃ t, exec (.call nnn) s = .next t ∧
    (∀ k : Fin 16, k.val = s.sp.toNat → t.slot k = s.pc + 2#16) ∧
    t.sp.toNat = s.sp.toNat + 1 ∧ t.pc.toNat = nnn.toNat ∧
    Unchanged (fun p => p = .pc ∨ p = .depth ∨ ∃ k : Fin 16, k.val = s.sp.toNat ∧ p = .slot k) s t) ∧
  (∀ (nnn : Addr12) (s : State), s.sp.toNat = 16 →
    FaultsWith .stackOverflow (.call nnn) s (exec (.call nnn) s))

/-- R102: RET counts down and takes the slot at the new depth, which keeps its value; on an empty stack it faults. The fault's
record rests on decision D3 (log 1), the kept slot on D6. -/
def Obligations.ReturnPopsIntoProgramCounter : Prop :=
  (∀ s : State, 0 < s.sp.toNat → s.sp.toNat ≤ 16 → ∃ t, exec .ret s = .next t ∧
    t.sp.toNat + 1 = s.sp.toNat ∧ (∀ k : Fin 16, k.val + 1 = s.sp.toNat → t.pc = s.slot k) ∧
    Unchanged (fun p => p = .pc ∨ p = .depth) s t) ∧
  (∀ s : State, s.sp.toNat = 0 → FaultsWith .stackUnderflow .ret s (exec .ret s))

/-- The call and return property of the source's section 8 as C12 reads it: after a call and its return `PC` is the call's own
address + 2 and the depth is what it was; every part but `PC` and the slot used reads as before. -/
def Obligations.ReturnUndoesCall : Prop :=
  ∀ (nnn : Addr12) (s t : State), s.sp.toNat < 16 → exec (.call nnn) s = .next t →
    ∃ u, exec .ret t = .next u ∧ u.pc = s.pc + 2#16 ∧
      Unchanged (fun p => p = .pc ∨ ∃ k : Fin 16, k.val = s.sp.toNat ∧ p = .slot k) s u

/-- THE MODEL'S CHOICE (log 8): at a depth above 16, which R28 says is never reached, CALL and RET stop by name. -/
def Obligations.DepthAboveSixteenStops : Prop :=
  ∀ (nnn : Addr12) (s : State), 16 < s.sp.toNat →
    exec (.call nnn) s = .fault .stackDepthAboveSixteen ∧ exec .ret s = .fault .stackDepthAboveSixteen

/-- R105, R106: SE and SNE against an immediate, with their words. -/
def Obligations.ImmediateSkips : Prop :=
  ∀ (x : Reg) (nn : Byte) (s : State),
    (encode (.seImm x nn)).toNat = 0x3000 + 256 * x.val + nn.toNat ∧
    (encode (.sneImm x nn)).toNat = 0x4000 + 256 * x.val + nn.toNat ∧
    (∃ t, exec (.seImm x nn) s = .next t ∧
      t.pc = s.pc + (if s.reg x = nn then 4#16 else 2#16) ∧ Unchanged (· = .pc) s t) ∧
    (∃ t, exec (.sneImm x nn) s = .next t ∧
      t.pc = s.pc + (if s.reg x = nn then 2#16 else 4#16) ∧ Unchanged (· = .pc) s t)

/-- R107, R108: SE and SNE of two registers, with their words; with `x` = `y` SE always and SNE never skips. -/
def Obligations.RegisterSkips : Prop :=
  ∀ (x y : Reg) (s : State),
    (encode (.seReg x y)).toNat = 0x5000 + 256 * x.val + 16 * y.val ∧
    (encode (.sneReg x y)).toNat = 0x9000 + 256 * x.val + 16 * y.val ∧
    (∃ t, exec (.seReg x y) s = .next t ∧
      t.pc = s.pc + (if s.reg x = s.reg y then 4#16 else 2#16) ∧ Unchanged (· = .pc) s t) ∧
    (∃ t, exec (.sneReg x y) s = .next t ∧
      t.pc = s.pc + (if s.reg x = s.reg y then 2#16 else 4#16) ∧ Unchanged (· = .pc) s t)

/-! ### Registers (41_register_alu.md) -/

/-- R121, R123: LD Vx, nn and LD Vx, Vy, with their words. -/
def Obligations.LoadsIntoRegister : Prop :=
  (∀ (x : Reg) (nn : Byte) (s : State), (encode (.ldImm x nn)).toNat = 0x6000 + 256 * x.val + nn.toNat ∧
    ∃ t, exec (.ldImm x nn) s = .next t ∧
    t.reg x = nn ∧ t.pc = s.pc + 2#16 ∧ Unchanged (fun p => p = .reg x ∨ p = .pc) s t) ∧
  (∀ (x y : Reg) (s : State), (encode (.ldReg x y)).toNat = 0x8000 + 256 * x.val + 16 * y.val ∧
    ∃ t, exec (.ldReg x y) s = .next t ∧
    t.reg x = s.reg y ∧ t.pc = s.pc + 2#16 ∧ Unchanged (fun p => p = .reg x ∨ p = .pc) s t)

/-- R122: ADD Vx, nn, with its word; the carry is discarded and `VF` is not written (unless it is `Vx`, which receives the sum). -/
def Obligations.AddImmediateWraps : Prop :=
  ∀ (x : Reg) (nn : Byte) (s : State), (encode (.addImm x nn)).toNat = 0x7000 + 256 * x.val + nn.toNat ∧
    ∃ t, exec (.addImm x nn) s = .next t ∧
    (t.reg x).toNat = ((s.reg x).toNat + nn.toNat) % 256 ∧ t.pc = s.pc + 2#16 ∧
    Unchanged (fun p => p = .reg x ∨ p = .pc) s t

/-- R124, R125, R126: OR, AND, XOR, bit by bit; `VF` is written only as the destination. Rests on decision D22 (log 13). -/
def Obligations.LogicOperationsBitwise : Prop :=
  ∀ (x y : Reg) (s : State),
    (∃ t, exec (.orReg x y) s = .next t ∧
      (∀ j < 8, (t.reg x).getLsbD j = ((s.reg x).getLsbD j || (s.reg y).getLsbD j)) ∧
      t.pc = s.pc + 2#16 ∧ Unchanged (fun p => p = .reg x ∨ p = .pc) s t) ∧
    (∃ t, exec (.andReg x y) s = .next t ∧
      (∀ j < 8, (t.reg x).getLsbD j = ((s.reg x).getLsbD j && (s.reg y).getLsbD j)) ∧
      t.pc = s.pc + 2#16 ∧ Unchanged (fun p => p = .reg x ∨ p = .pc) s t) ∧
    (∃ t, exec (.xorReg x y) s = .next t ∧
      (∀ j < 8, (t.reg x).getLsbD j = ((s.reg x).getLsbD j ^^ (s.reg y).getLsbD j)) ∧
      t.pc = s.pc + 2#16 ∧ Unchanged (fun p => p = .reg x ∨ p = .pc) s t)

/-- R127: ADD Vx, Vy, with its word; with `x` = 0xF the flag stays and the sum is lost (decision D7, log 13). -/
def Obligations.AddRegisterSetsCarry : Prop :=
  ∀ (x y : Reg) (s : State), (encode (.addReg x y)).toNat = 0x8004 + 256 * x.val + 16 * y.val ∧
    ∃ t, exec (.addReg x y) s = .next t ∧
    (x ≠ 0xF → (t.reg x).toNat = ((s.reg x).toNat + (s.reg y).toNat) % 256) ∧
    (t.reg 0xF).toNat = (if (s.reg x).toNat + (s.reg y).toNat > 255 then 1 else 0) ∧
    t.pc = s.pc + 2#16 ∧ Unchanged (fun p => p = .reg x ∨ p = .reg 0xF ∨ p = .pc) s t

/-- R128: SUB Vx, Vy, with its word; the flag is "no borrow"; with `x` = 0xF it stays (decision
D7, log 13). -/
def Obligations.SubtractSetsNoBorrow : Prop :=
  ∀ (x y : Reg) (s : State), (encode (.subReg x y)).toNat = 0x8005 + 256 * x.val + 16 * y.val ∧
    ∃ t, exec (.subReg x y) s = .next t ∧
    (x ≠ 0xF → (t.reg x).toNat = ((s.reg x).toNat + 256 - (s.reg y).toNat) % 256) ∧
    (t.reg 0xF).toNat = (if (s.reg x).toNat ≥ (s.reg y).toNat then 1 else 0) ∧
    t.pc = s.pc + 2#16 ∧ Unchanged (fun p => p = .reg x ∨ p = .reg 0xF ∨ p = .pc) s t

/-- R130: SUBN Vx, Vy, the minuend `Vy`; "no borrow" as the spec derives it there; with `x` = 0xF the
flag stays (decision D7, log 13). -/
def Obligations.SubtractReversedSetsNoBorrow : Prop :=
  ∀ (x y : Reg) (s : State), ∃ t, exec (.subnReg x y) s = .next t ∧
    (x ≠ 0xF → (t.reg x).toNat = ((s.reg y).toNat + 256 - (s.reg x).toNat) % 256) ∧
    (t.reg 0xF).toNat = (if (s.reg y).toNat ≥ (s.reg x).toNat then 1 else 0) ∧
    t.pc = s.pc + 2#16 ∧ Unchanged (fun p => p = .reg x ∨ p = .reg 0xF ∨ p = .pc) s t

/-- R129, R131: SHR and SHL move `Vy` by one into `Vx`; the bit moved out goes to `VF`. Rests on decisions D7
and D8 (log 13). -/
def Obligations.ShiftsMoveOneBit : Prop :=
  ∀ (x y : Reg) (s : State),
    (∃ t, exec (.shrReg x y) s = .next t ∧
      (x ≠ 0xF → (t.reg x).toNat = (s.reg y).toNat / 2) ∧ (t.reg 0xF).toNat = (s.reg y).toNat % 2 ∧
      t.pc = s.pc + 2#16 ∧ Unchanged (fun p => p = .reg x ∨ p = .reg 0xF ∨ p = .pc) s t) ∧
    (∃ t, exec (.shlReg x y) s = .next t ∧
      (x ≠ 0xF → (t.reg x).toNat = (s.reg y).toNat * 2 % 256) ∧ (t.reg 0xF).toNat = (s.reg y).toNat / 128 ∧
      t.pc = s.pc + 2#16 ∧ Unchanged (fun p => p = .reg x ∨ p = .reg 0xF ∨ p = .pc) s t)

/-- R132: RND Vx, nn with the step's draw, a FREE VALUE (log 3): the instruction runs with the next draw, and for every byte
`r` as the draw `Vx` is `r & nn`. The draw counter goes up by one: the model's form of "fresh at every step" (log 3). Rests on
decision D14. -/
def Obligations.RandomByteIsMasked : Prop :=
  ∀ (x : Reg) (nn : Byte) (s : State),
    (∃ t, exec (.rnd x nn) s = .next t ∧ t = rndWith (Config.draw s.draws) x nn s) ∧
    ∀ r : Byte, (∀ j < 8, ((rndWith r x nn s).reg x).getLsbD j = (r.getLsbD j && nn.getLsbD j)) ∧
      (rndWith r x nn s).pc = s.pc + 2#16 ∧ (rndWith r x nn s).draws = s.draws + 1 ∧
      Unchanged (fun p => p = .reg x ∨ p = .pc ∨ p = .draws) s (rndWith r x nn s)

/-! ### Index register and memory (42_index_memory.md) -/

/-- R141: LD I, nnn, with its word. -/
def Obligations.LoadIndexImmediate : Prop :=
  ∀ (nnn : Addr12) (s : State), (encode (.ldI nnn)).toNat = 0xA000 + nnn.toNat ∧ ∃ t, exec (.ldI nnn) s = .next t ∧
    t.i.toNat = nnn.toNat ∧ t.pc = s.pc + 2#16 ∧ Unchanged (fun p => p = .index ∨ p = .pc) s t

/-- R142: ADD I, Vx modulo 65536, `VF` untouched. Rests on decision D9 (log 13). -/
def Obligations.AddToIndexWraps : Prop :=
  ∀ (x : Reg) (s : State), ∃ t, exec (.addI x) s = .next t ∧
    t.i.toNat = (s.i.toNat + (s.reg x).toNat) % 65536 ∧ t.pc = s.pc + 2#16 ∧
    Unchanged (fun p => p = .index ∨ p = .pc) s t

/-- R143: LD F, Vx on the whole 8-bit value. Rests on decision D11 for `Vx` above 15 (log 12). -/
def Obligations.FontGlyphAddress : Prop :=
  ∀ (x : Reg) (s : State), ∃ t, exec (.ldF x) s = .next t ∧
    t.i.toNat = 5 * (s.reg x).toNat ∧ t.pc = s.pc + 2#16 ∧ Unchanged (fun p => p = .index ∨ p = .pc) s t

/-- R144: LD B, Vx stores the hundreds, tens and ones at `I`, `I + 1`, `I + 2`, whenever the three bytes lie in `MEM`. -/
def Obligations.BcdStoresDigits : Prop :=
  ∀ (x : Reg) (s : State), s.mem.wf = true → s.i.toNat + 2 ≤ 0xFFF → ∃ t, exec (.ldB x) s = .next t ∧
    (t.mem.read s.i.toNat).toNat = (s.reg x).toNat / 100 ∧
    (t.mem.read (s.i.toNat + 1)).toNat = (s.reg x).toNat / 10 % 10 ∧
    (t.mem.read (s.i.toNat + 2)).toNat = (s.reg x).toNat % 10 ∧ t.pc = s.pc + 2#16 ∧
    Unchanged (fun p => p = .pc ∨ ∃ a, dataAddr s 0 ≤ a ∧ a ≤ dataAddr s 2 ∧ p = .byte a) s t

/-- R145: LD [I], Vx stores `V0..Vx` at `I..I + x`; `I` is unchanged (decision D22, log 13). -/
def Obligations.StoreRegistersBlock : Prop :=
  ∀ (x : Reg) (s : State), s.mem.wf = true → s.i.toNat + x.val ≤ 0xFFF → ∃ t, exec (.storeRegs x) s = .next t ∧
    (∀ k : Reg, k ≤ x → t.mem.read (s.i.toNat + k.val) = s.reg k) ∧ t.pc = s.pc + 2#16 ∧
    Unchanged (fun p => p = .pc ∨ ∃ a, dataAddr s 0 ≤ a ∧ a ≤ dataAddr s x.val ∧ p = .byte a) s t

/-- R146: LD Vx, [I] loads `V0..Vx` from `I..I + x`; `I`, memory and the registers above are unchanged (decision D22). -/
def Obligations.LoadRegistersBlock : Prop :=
  ∀ (x : Reg) (s : State), s.i.toNat + x.val ≤ 0xFFF → ∃ t, exec (.loadRegs x) s = .next t ∧
    (∀ k : Reg, k ≤ x → t.reg k = s.mem.read (s.i.toNat + k.val)) ∧ t.pc = s.pc + 2#16 ∧
    Unchanged (fun p => p = .pc ∨ ∃ k : Reg, k ≤ x ∧ p = .reg k) s t

/-- R53, R204: each of the four data instructions faults exactly when the highest address of its range exceeds 0xFFF, as an
unbounded integer, and then changes nothing. Rests on decisions D3, D23 and D27 (log 1). -/
def Obligations.DataRangeFaults : Prop :=
  (∀ (i : Instr) (s : State), dataFault i s → FaultsWith .outOfBoundsAccess i s (exec i s)) ∧
  (∀ (i : Instr) (s t : State), s.halt = false → exec i s = .next t → t.halt = true →
    t.fault.kind = .outOfBoundsAccess → dataFault i s)

/-- R60: a word stored by LD [I], Vx is the word fetched from there, at once. -/
def Obligations.StoredWordIsFetched : Prop :=
  ∀ (x k l : Reg) (s t : State), s.mem.wf = true → s.i.toNat + x.val ≤ 0xFFF → l ≤ x → l.val = k.val + 1 →
    exec (.storeRegs x) s = .next t →
    ∃ w, t.mem.fetch16 (s.i.toNat + k.val) = some w ∧ w.toNat = (s.reg k).toNat * 256 + (s.reg l).toNat

/-! ### Display (43_display.md) -/

/-- R161: CLS, with its word. -/
def Obligations.ClearScreenBlanks : Prop :=
  encode .cls = 0x00E0#16 ∧ ∀ s : State, ∃ t, exec .cls s = .next t ∧ (∀ y x, t.pixel y x = false) ∧ t.dirty = true ∧
    t.pc = s.pc + 2#16 ∧ Unchanged (fun p => p = .dirty ∨ p = .pc ∨ ∃ y x, p = .pixel y x) s t

/-- R162, R163, R164: DRW flips exactly the pixels its sprite has on, wrapped on both axes; `VF` is 1 exactly when one of them
was on; `DIRTY` is set when `n` is not 0. With `n` = 0 the sprite has no pixel, so nothing is drawn and `VF` is 0, whatever `I`
holds. Rests on decisions D15, D22 and D23 (log 13). -/
def Obligations.DrawFlipsSpritePixels : Prop :=
  ∀ (x y : Reg) (n : BitVec 4) (s : State), n.toNat = 0 ∨ s.i.toNat + n.toNat - 1 ≤ 0xFFF →
    ∃ t, exec (.drw x y n) s = .next t ∧
      (∀ py px, spritePixel x y n s py px → t.pixel py px = !s.pixel py px) ∧
      (∀ py px, ¬ spritePixel x y n s py px → t.pixel py px = s.pixel py px) ∧
      ((∃ py px, spritePixel x y n s py px ∧ s.pixel py px = true) → t.reg 0xF = 1#8) ∧
      ((¬ ∃ py px, spritePixel x y n s py px ∧ s.pixel py px = true) → t.reg 0xF = 0#8) ∧
      t.dirty = (s.dirty || decide (n.toNat ≠ 0)) ∧ t.pc = s.pc + 2#16 ∧
      Unchanged (fun p => p = .reg 0xF ∨ p = .dirty ∨ p = .pc ∨ ∃ py px, p = .pixel py px) s t

/-- The source's double-draw property (S6): the same sprite drawn twice at the same place restores the screen, and when the
sprite has a pixel on, the second draw on a clear screen collides and the first does not. The coordinates are kept out of `VF`,
which the first draw writes. Rests on decisions D22 and D23. -/
def Obligations.DrawTwiceRestoresScreen : Prop :=
  ∀ (x y : Reg) (n : BitVec 4) (s t : State), x ≠ 0xF → y ≠ 0xF →
    n.toNat = 0 ∨ s.i.toNat + n.toNat - 1 ≤ 0xFFF → exec (.drw x y n) s = .next t →
    ∃ u, exec (.drw x y n) t = .next u ∧ (∀ py px, u.pixel py px = s.pixel py px) ∧
      ((∀ py px, s.pixel py px = false) → t.reg 0xF = 0#8 ∧
        ((∃ py px, spritePixel x y n s py px) → u.reg 0xF = 1#8))

/-- R166: bit `7 - (x mod 8)` of byte `8 y + x div 8` of the frame is the pixel. Rests on decision D16 (log 14). -/
def Obligations.FrameReadOutPacksPixels : Prop :=
  ∀ (s : State) (y : Fin 32) (x : Fin 64) (k : Fin 256), k.val = 8 * y.val + x.val / 8 →
    (s.frameByte k).getLsbD (7 - x.val % 8) = s.pixel y x

/-! ### Keys and timers (44_input_timers.md) -/

/-- R181, R182: SKP and SKNP; the key is `Vx mod 16`. Rests on decision D12 for `Vx` above 15 (log 12). -/
def Obligations.KeySkips : Prop :=
  ∀ (x : Reg) (s : State),
    (∃ t, exec (.skp x) s = .next t ∧
      t.pc = s.pc + (if s.keys.getLsbD ((s.reg x).toNat % 16) then 4#16 else 2#16) ∧ Unchanged (· = .pc) s t) ∧
    (∃ t, exec (.sknp x) s = .next t ∧
      t.pc = s.pc + (if s.keys.getLsbD ((s.reg x).toNat % 16) then 2#16 else 4#16) ∧ Unchanged (· = .pc) s t)

/-- R183: LD Vx, K; with no key pressed the whole state stays, `PC` included; else `Vx` is the least pressed key. Rests on
decision D13 (log 11). -/
def Obligations.WaitForKey : Prop :=
  (∀ (x : Reg) (s : State), s.keys = 0#16 → exec (.ldVxK x) s = .next s) ∧
  (∀ (x : Reg) (s : State), s.keys ≠ 0#16 → ∃ t, exec (.ldVxK x) s = .next t ∧
    s.keys.getLsbD (t.reg x).toNat = true ∧ (∀ j < (t.reg x).toNat, s.keys.getLsbD j = false) ∧
    t.pc = s.pc + 2#16 ∧ Unchanged (fun p => p = .reg x ∨ p = .pc) s t)

/-- R184, R185, R186: the timer instructions, with their words; a non-zero `ST` turns the sound output on, zero turns it off
(R188: `sound_on` = (`ST` != 0) is decision D29, log 19). (That no instruction reads `ST` is `SoundAndDirtyAreNotRead`.) -/
def Obligations.TimerInstructionsMoveValues : Prop :=
  ∀ (x : Reg) (s : State),
    (encode (.ldVxDt x)).toNat = 0xF007 + 256 * x.val ∧ (encode (.ldDtVx x)).toNat = 0xF015 + 256 * x.val ∧
    (encode (.ldStVx x)).toNat = 0xF018 + 256 * x.val ∧
    (∃ t, exec (.ldVxDt x) s = .next t ∧ t.reg x = s.dt ∧ t.pc = s.pc + 2#16 ∧
      Unchanged (fun p => p = .reg x ∨ p = .pc) s t) ∧
    (∃ t, exec (.ldDtVx x) s = .next t ∧ t.dt = s.reg x ∧ t.pc = s.pc + 2#16 ∧
      Unchanged (fun p => p = .delay ∨ p = .pc) s t) ∧
    (∃ t, exec (.ldStVx x) s = .next t ∧ t.st = s.reg x ∧ t.pc = s.pc + 2#16 ∧
      (t.soundOn = true ↔ (s.reg x).toNat ≠ 0) ∧ Unchanged (fun p => p = .sound ∨ p = .pc) s t)

/-- R187: Tick counts both timers down, floored at 0, halted or not (decision D21, log 6). -/
def Obligations.TickCountsDown : Prop :=
  ∀ s : State, ∃ t, Event.apply .tick s = .next t ∧ t.dt.toNat = s.dt.toNat - 1 ∧ t.st.toNat = s.st.toNat - 1 ∧
    Unchanged (fun p => p = .delay ∨ p = .sound) s t

/-- The source's timer property (S8), "independent of how many step() calls occurred": along any run of events other than
Reset in which no Step executes LD DT, Vx, the delay timer counts down by the number of ticks, floored at 0, however many Steps
fall between them; the sound timer likewise without LD ST, Vx. And a run of Tick, SetKeys and TakeDirty events always completes,
with `PC` and the registers as before. -/
def Obligations.TicksReachZero : Prop :=
  (∀ (es : List Event) (s t : State), (∀ e ∈ es, e ≠ .reset) → runEvents es s = .next t →
    (avoids (fun i => ∃ x, i = .ldDtVx x) es s → t.dt.toNat = s.dt.toNat - es.count .tick) ∧
    (avoids (fun i => ∃ x, i = .ldStVx x) es s → t.st.toNat = s.st.toNat - es.count .tick)) ∧
  (∀ (es : List Event) (s : State), (∀ e ∈ es, e = .tick ∨ e = .takeDirty ∨ ∃ k, e = .setKeys k) →
    ∃ t, runEvents es s = .next t ∧ t.dt.toNat = s.dt.toNat - es.count .tick ∧
      t.st.toNat = s.st.toNat - es.count .tick ∧
      Unchanged (fun p => p = .delay ∨ p = .sound ∨ p = .keys ∨ p = .dirty) s t)

/-- R165, R189: SetKeys replaces the snapshot; TakeDirty returns and clears the flag; each changes nothing else. -/
def Obligations.HostEventsReplaceOneField : Prop :=
  (∀ (k : Word) (s : State), ∃ t, Event.apply (.setKeys k) s = .next t ∧ t.keys = k ∧ Unchanged (· = .keys) s t) ∧
  (∀ s : State, ∃ t, Event.apply .takeDirty s = .next t ∧ s.takeDirty = (s.dirty, t) ∧ t.dirty = false ∧
    Unchanged (· = .dirty) s t)

/-! ### Reset, load and the whole machine (70_reset_and_hazards.md, 60_exceptions.md) -/

/-- R232: Load copies an image of at most 0xE00 bytes to 0x200 and up, verbatim, and changes nothing else; a longer one is
refused outside the CORE (log 9). -/
def Obligations.LoadCopiesImage : Prop :=
  (∀ (bytes : List Byte) (s : State), s.mem.wf = true → bytes.length ≤ 0xE00 →
    ∃ t, Event.apply (.load bytes) s = .next t ∧
      (∀ k (h : k < bytes.length), t.mem.read (0x200 + k) = bytes[k]) ∧
      Unchanged (fun p => ∃ a, 0x200 ≤ a ∧ a < 0x200 + bytes.length ∧ p = .byte a) s t) ∧
  (∀ (bytes : List Byte) (s : State), bytes.length > 0xE00 →
    Event.apply (.load bytes) s = .refused .imageTooLong)

/-- R34, R230: what Reset leaves, from every state. DT, ST, KEYS, DIRTY, HALT and the slots rest on decisions D3 and D17 (log
15), its scope on D18 (log 16); the glyph bytes are the default FONT (log 4), here only named; the FAULT record is unspecified
(log 2) and not stated; that the model's own draw counter runs on is log 3. -/
def Obligations.ResetSetsEveryPart : Prop :=
  ∀ s : State, ∃ t, Event.apply .reset s = .next t ∧
    (∀ k, t.reg k = 0#8) ∧ t.i = 0#16 ∧ t.pc = 0x200#16 ∧ t.sp = 0#5 ∧ (∀ k, t.slot k = 0#16) ∧
    (∀ a, 80 ≤ a → t.mem.read a = 0#8) ∧ (∀ a, a < 80 → font[a]? = some (t.mem.read a)) ∧
    (∀ y x, t.pixel y x = false) ∧ t.dirty = false ∧ t.keys = 0#16 ∧ t.dt = 0#8 ∧ t.st = 0#8 ∧ t.halt = false ∧
    t.draws = s.draws

/-- The invariant holds after reset: R35's bounds on `SP`, `PC` and the slots (the slots' reset value is decision D17, log 15),
the canonical form of memory, which is the model's own (log 5), and the halted machine's `PC` (R208, decision D3, log 1). -/
def Obligations.ResetMeetsInvariant : Prop := State.reset.Inv

/-- Every step keeps the invariant, from every state that meets it: R35's bounds (`SP` at most 16, `PC` at most 0x10FE, every slot
at most 0x1000), the canonical form of memory, which is the model's own (log 5), and a halted machine at the instruction its record
names (R208, decision D3, log 1). -/
def Obligations.StepKeepsInvariant : Prop :=
  ∀ s t : State, s.Inv → step s = .next t → t.Inv

/-- Every one of the six events keeps the invariant, in any order, from every state that meets it: R35's bounds, the canonical
form of memory (the model's own, log 5) and the halted machine's `PC` (R208, decision D3, log 1). -/
def Obligations.EventsKeepInvariant : Prop :=
  ∀ (es : List Event) (s t : State), s.Inv → runEvents es s = .next t → t.Inv

/-- R6: a step has a next state (a fault being one with HALT set, log 1) and no third outcome: nothing blocks, nothing is
refused, from any state that meets the invariant. -/
def Obligations.StepAlwaysAnswersNext : Prop :=
  ∀ s : State, s.Inv → ∃ t, step s = .next t

/-- R200 to R204, R207 to R209: a step that halts the machine changes nothing but HALT and FAULT, records the instruction's
address and the fetched word, and its kind has exactly the cause the spec gives. Rests on decisions D3 and D4 (log 1). -/
def Obligations.FaultingStepIsPrecise : Prop :=
  ∀ s t : State, s.halt = false → step s = .next t → t.halt = true →
    Unchanged (fun p => p = .halt ∨ p = .fault) s t ∧ t.fault.pc = s.pc ∧
    (t.fault.op = none → t.fault.kind = .outOfBoundsAccess ∧ s.pc.toNat + 1 > 0xFFF) ∧
    (∀ w, t.fault.op = some w → s.pc.toNat + 1 ≤ 0xFFF ∧ w = wordAt s s.pc.toNat ∧
      (t.fault.kind = .unimplementedOpcode → ∀ i, decode w ≠ .ok i) ∧
      (t.fault.kind = .stackOverflow → ∃ nnn, decode w = .ok (.call nnn) ∧ s.sp.toNat = 16) ∧
      (t.fault.kind = .stackUnderflow → decode w = .ok .ret ∧ s.sp.toNat = 0) ∧
      (t.fault.kind = .outOfBoundsAccess → ∃ i, decode w = .ok i ∧ dataFault i s))

/-- R205: no instruction but RET, CALL, DRW and the three memory instructions ever halts the machine, and none clears a halt or
touches a record without halting. The latch is decision D3, the range of a data instruction D23 and D27 (log 1). -/
def Obligations.OnlySixInstructionsFault : Prop :=
  ∀ (i : Instr) (s t : State), exec i s = .next t → (t.halt ≠ s.halt ∨ t.fault ≠ s.fault) →
    t.halt = true ∧ ((i = .ret ∧ s.sp.toNat = 0) ∨ (∃ nnn, i = .call nnn ∧ s.sp.toNat = 16) ∨ dataFault i s)

/-- R210: while HALT = 1 no event but Reset clears it, changes the record or moves `PC`. The latch is decision D3 (log 1); what the
other events still do while halted is D21 (log 6). -/
def Obligations.HaltLatchHeldUntilReset : Prop :=
  ∀ (e : Event) (s t : State), s.halt = true → e ≠ .reset → e.apply s = .next t →
    t.halt = true ∧ t.fault = s.fault ∧ t.pc = s.pc

/-- R24: `I` is written only by Annn, Fx1E and Fx29. That Fx33, Fx55, Fx65 and Dxyn leave it is decision D22 (R140, log 13). -/
def Obligations.IndexRegisterWriters : Prop :=
  ∀ (i : Instr) (s t : State), exec i s = .next t → t.i ≠ s.i →
    (∃ nnn, i = .ldI nnn) ∨ (∃ x, i = .addI x) ∨ (∃ x, i = .ldF x)

/-- R62, R39: memory is written only by Fx33 and Fx55; the framebuffer and DIRTY only by 00E0 and Dxyn, which only set DIRTY
(R33, R164). -/
def Obligations.MemoryAndScreenWriters : Prop :=
  ∀ (i : Instr) (s t : State), exec i s = .next t →
    (t.mem ≠ s.mem → (∃ x, i = .ldB x) ∨ (∃ x, i = .storeRegs x)) ∧
    (t.fb ≠ s.fb ∨ t.dirty ≠ s.dirty → i = .cls ∨ ∃ x y n, i = .drw x y n) ∧
    (s.dirty = true → t.dirty = true)

/-- R28 to R32: SP is written only by CALL and RET, a slot only by CALL, DT only by Fx15, ST only by Fx18, KEYS by no
instruction; that only RND advances the draw counter is the model's own (R132, log 3). -/
def Obligations.StackAndTimerWriters : Prop :=
  ∀ (i : Instr) (s t : State), exec i s = .next t →
    (t.sp ≠ s.sp → i = .ret ∨ ∃ nnn, i = .call nnn) ∧ (t.stack ≠ s.stack → ∃ nnn, i = .call nnn) ∧
    (t.dt ≠ s.dt → ∃ x, i = .ldDtVx x) ∧ (t.st ≠ s.st → ∃ x, i = .ldStVx x) ∧ t.keys = s.keys ∧
    (t.draws ≠ s.draws → ∃ x nn, i = .rnd x nn)

/-- R20, R22: a general register changes only as the destination of an instruction, as one of the block `V0..Vx` that Fx65
loads, or, `VF` alone, as the flag of the six instructions of R22's table, which leave 0 or 1 in it. That 8xy1, 8xy2, 8xy3 and
Fx1E leave `VF` is decisions D22 and D9 (log 13). -/
def Obligations.GeneralRegisterWriters : Prop :=
  ∀ (i : Instr) (s t : State) (k : Reg), exec i s = .next t → t.reg k ≠ s.reg k →
    destination i = some k ∨ (∃ x, i = .loadRegs x ∧ k ≤ x) ∨
    (writesFlag i = true ∧ k = 0xF ∧ (t.reg k = 0#8 ∨ t.reg k = 1#8)) ∨
    (∃ y, i = .addReg k y ∨ i = .subReg k y ∨ i = .shrReg k y ∨ i = .subnReg k y ∨ i = .shlReg k y)

/-- R32: KEYS is read by Ex9E, ExA1 and Fx0A only: every other instruction does the same whatever the snapshot. -/
def Obligations.KeysReadOnlyByKeyInstructions : Prop :=
  ∀ (i : Instr) (s : State) (k : Word), (∀ x, i ≠ .skp x ∧ i ≠ .sknp x ∧ i ≠ .ldVxK x) →
    exec i (s.setKeys k) = mapNext (·.setKeys k) (exec i s)

/-- R31, R33: no instruction reads ST or DIRTY: whatever they hold, every other part ends the same. -/
def Obligations.SoundAndDirtyAreNotRead : Prop :=
  ∀ (i : Instr) (s t : State) (b : Byte) (d : Bool), exec i s = .next t →
    ∃ u, exec i ((s.setSt b).setDirty d) = .next u ∧ Unchanged (fun p => p = .sound ∨ p = .dirty) t u

/-- R240: a jump to itself is a fixed point of Step (the spec's own end state, decision D24). -/
def Obligations.SelfJumpIsFixedPoint : Prop :=
  ∀ s : State, Ended s → step s = .next s
end

