-- ==== Sys2Proof/Laws/Display.lean ====
section
/-! SUPPORT. Pixels of the framebuffer (spec/43_display.md): what a pixel reads after one pixel is XORed and on a blank
screen. -/

namespace Sys2Proof.Machine

theorem columnMask_getMsbD (x x' : Fin 64) : (columnMask x).getMsbD x'.val = decide (x' = x) := by
  have h := x.isLt
  have h' := x'.isLt
  simp only [columnMask, BitVec.getMsbD_eq_getLsbD, BitVec.getLsbD_twoPow, Fin.ext_iff]
  by_cases hx : x'.val = x.val
  · rw [hx]; simp; omega
  · simp [hx]; omega

/-- XORing one pixel flips it when the bit is 1 and leaves every other pixel alone. -/
theorem Screen.pixel_xorPixel (f : Screen) (y y' : Fin 32) (x x' : Fin 64) (bit : Bool) :
    Screen.pixel (Screen.xorPixel f y x bit) y' x' =
      (Screen.pixel f y' x' ^^ (bit && decide (y' = y ∧ x' = x))) := by
  simp only [Screen.pixel, Screen.xorPixel, Vector.getElem_set]
  by_cases hy : y' = y
  · subst hy
    rw [if_pos rfl, BitVec.getMsbD_xor]
    cases bit
    · simp
    · simp [columnMask_getMsbD]
  · rw [if_neg (fun h => hy (Fin.ext h.symm))]
    simp [hy]

@[simp] theorem pixel_blankScreen (y : Fin 32) (x : Fin 64) : Screen.pixel blankScreen y x = false := by
  simp [Screen.pixel, blankScreen]

/-! ### A whole sprite -/

/-- The dots of a sprite of `n` rows in the order they are drawn: row and column. -/
def spriteDots (n : Nat) : List (Nat × Nat) :=
  (List.range n).flatMap fun r => (List.range 8).map fun c => (r, c)

theorem mem_spriteDots (n : Nat) (p : Nat × Nat) : p ∈ spriteDots n ↔ p.1 < n ∧ p.2 < 8 := by
  simp only [spriteDots, List.mem_flatMap, List.mem_map, List.mem_range]
  constructor
  · rintro ⟨r, hr, c, hc, rfl⟩; exact ⟨hr, hc⟩
  · rintro ⟨hr, hc⟩; exact ⟨p.1, hr, p.2, hc, rfl⟩

/-- A sprite of at most 32 rows puts no two dots on one pixel, wrapped as it may be. -/
theorem spriteDots_pairwise (x0 y0 n : Nat) (h : n ≤ 32) : (spriteDots n).Pairwise fun p q =>
    ¬ (wrapRow y0 p.1 = wrapRow y0 q.1 ∧ wrapColumn x0 p.2 = wrapColumn x0 q.2) := by
  have hnd : (spriteDots n).Nodup := by
    refine List.nodup_flatMap.mpr ⟨fun r _ => ?_, ?_⟩
    · exact (List.nodup_range).map fun a b hab => (Prod.mk.inj hab).2
    · refine (List.nodup_range (n := n)).imp_of_mem fun {a b} _ _ hab => ?_
      intro p hp hq
      simp only [List.mem_map] at hp hq
      obtain ⟨c, _, rfl⟩ := hp
      obtain ⟨d, _, hd⟩ := hq
      exact hab (Prod.mk.inj hd).1.symm
  refine hnd.imp_of_mem fun {p q} hp hq hne hpq => ?_
  rw [mem_spriteDots] at hp hq
  obtain ⟨hr, hc⟩ := hpq
  simp only [wrapRow, wrapColumn, Fin.ofNat, Fin.mk.injEq] at hr hc
  exact hne (Prod.ext (by omega) (by omega))

/-- Dots drawn one after the other on distinct pixels: each on dot flips its pixel; the collision bit is set exactly when
an on dot meets a pixel that was on before. -/
theorem foldl_drawPixel (m : Memory) (base x0 y0 : Nat) (l : List (Nat × Nat))
    (hl : l.Pairwise fun p q => ¬ (wrapRow y0 p.1 = wrapRow y0 q.1 ∧ wrapColumn x0 p.2 = wrapColumn x0 q.2))
    (acc : Screen × Bool) :
    (∀ y x, Screen.pixel (l.foldl (fun acc p => drawPixel (m.read (base + p.1)) x0 (wrapRow y0 p.1) acc p.2) acc).1 y x =
      (Screen.pixel acc.1 y x ^^ decide (∃ p ∈ l, spriteBit (m.read (base + p.1)) p.2 = true ∧
        wrapRow y0 p.1 = y ∧ wrapColumn x0 p.2 = x))) ∧
    (l.foldl (fun acc p => drawPixel (m.read (base + p.1)) x0 (wrapRow y0 p.1) acc p.2) acc).2 =
      (acc.2 || decide (∃ p ∈ l, spriteBit (m.read (base + p.1)) p.2 = true ∧
        Screen.pixel acc.1 (wrapRow y0 p.1) (wrapColumn x0 p.2) = true)) := by
  induction l generalizing acc with
  | nil => simp
  | cons q l ih =>
    rw [List.pairwise_cons] at hl
    obtain ⟨h1, h2⟩ := ih hl.2 (drawPixel (m.read (base + q.1)) x0 (wrapRow y0 q.1) acc q.2)
    refine ⟨fun y x => ?_, ?_⟩
    · rw [List.foldl_cons, h1]
      simp only [drawPixel, Screen.pixel_xorPixel, List.exists_mem_cons_iff, Bool.xor_assoc]
      congr 1
      by_cases hq : wrapRow y0 q.1 = y ∧ wrapColumn x0 q.2 = x
      · obtain ⟨rfl, rfl⟩ := hq
        have hno : ¬ ∃ p ∈ l, spriteBit (m.read (base + p.1)) p.2 = true ∧
            wrapRow y0 p.1 = wrapRow y0 q.1 ∧ wrapColumn x0 p.2 = wrapColumn x0 q.2 :=
          fun ⟨p, hp, _, hr, hc⟩ => hl.1 p hp ⟨hr.symm, hc.symm⟩
        simp [hno]
      · have hq' : ¬ (y = wrapRow y0 q.1 ∧ x = wrapColumn x0 q.2) := fun ⟨a, b⟩ => hq ⟨a.symm, b.symm⟩
        simp [hq, hq']
    · have hsame : (∃ p ∈ l, spriteBit (m.read (base + p.1)) p.2 = true ∧
          Screen.pixel (drawPixel (m.read (base + q.1)) x0 (wrapRow y0 q.1) acc q.2).1
            (wrapRow y0 p.1) (wrapColumn x0 p.2) = true) ↔
          ∃ p ∈ l, spriteBit (m.read (base + p.1)) p.2 = true ∧
            Screen.pixel acc.1 (wrapRow y0 p.1) (wrapColumn x0 p.2) = true := by
        refine exists_congr fun p => and_congr_right fun hp => and_congr_right fun _ => ?_
        have hne : ¬ (wrapRow y0 p.1 = wrapRow y0 q.1 ∧ wrapColumn x0 p.2 = wrapColumn x0 q.2) :=
          fun ⟨hr, hc⟩ => hl.1 p hp ⟨hr.symm, hc.symm⟩
        simp only [drawPixel, Screen.pixel_xorPixel, hne, decide_false, Bool.and_false, Bool.xor_false]
      rw [List.foldl_cons, h2, decide_eq_decide.mpr hsame]
      simp only [drawPixel, List.exists_mem_cons_iff, Bool.or_assoc, Bool.decide_or]
      congr 2
      simp only [Bool.decide_and, Bool.decide_eq_true]

theorem drawSprite_eq_foldl (m : Memory) (base x0 y0 n : Nat) (f : Screen) :
    drawSprite m base x0 y0 n f =
      (spriteDots n).foldl (fun acc p => drawPixel (m.read (base + p.1)) x0 (wrapRow y0 p.1) acc p.2) (f, false) := by
  simp only [drawSprite, drawRow, spriteDots, List.foldl_flatMap, List.foldl_map]

/-- A dot of a sprite is on and stands at this pixel (R162). -/
abbrev dotAt (m : Memory) (base x0 y0 n : Nat) (y : Fin 32) (x : Fin 64) : Prop :=
  ∃ p ∈ spriteDots n, spriteBit (m.read (base + p.1)) p.2 = true ∧ wrapRow y0 p.1 = y ∧ wrapColumn x0 p.2 = x

/-- A sprite flips the pixels its on dots stand at, and no other (R162). -/
theorem drawSprite_pixel (m : Memory) (base x0 y0 : Nat) {n : Nat} (h : n ≤ 32) (f : Screen) (y : Fin 32) (x : Fin 64) :
    Screen.pixel (drawSprite m base x0 y0 n f).1 y x = (Screen.pixel f y x ^^ decide (dotAt m base x0 y0 n y x)) := by
  rw [drawSprite_eq_foldl]
  exact (foldl_drawPixel m base x0 y0 _ (spriteDots_pairwise x0 y0 n h) _).1 y x

/-- A sprite collides exactly when an on dot stands at a pixel that was on (R163). -/
theorem drawSprite_collides (m : Memory) (base x0 y0 : Nat) {n : Nat} (h : n ≤ 32) (f : Screen) :
    (drawSprite m base x0 y0 n f).2 = true ↔ ∃ y x, dotAt m base x0 y0 n y x ∧ Screen.pixel f y x = true := by
  rw [drawSprite_eq_foldl, (foldl_drawPixel m base x0 y0 _ (spriteDots_pairwise x0 y0 n h) _).2]
  simp only [Bool.false_or, decide_eq_true_eq]
  constructor
  · rintro ⟨p, hp, hb, hf⟩; exact ⟨_, _, ⟨p, hp, hb, rfl, rfl⟩, hf⟩
  · rintro ⟨y, x, ⟨p, hp, hb, rfl, rfl⟩, hf⟩; exact ⟨p, hp, hb, hf⟩

end Sys2Proof.Machine
end

