-- ==== Sys2Proof/Laws/Encoding.lean ====
section
/-! SUPPORT. The fields of a packed word are the fields it was packed from (spec/30_encoding.md R71, R72), a word is
its nibbles, and a word is its two bytes (R54). -/

namespace Sys2Proof

/-! Packed words and fields as numbers -/

theorem wordOfBytes_toNat (hi lo : Byte) : (wordOfBytes hi lo).toNat = hi.toNat * 256 + lo.toNat := by
  have h : (wordOfBytes hi lo).toNat = hi.toNat <<< 8 ||| lo.toNat := BitVec.toNat_append hi lo
  rw [h, ← Nat.shiftLeft_add_eq_or_of_lt lo.isLt, Nat.shiftLeft_eq]

theorem packNNN_toNat (m : BitVec 4) (nnn : Addr12) : (packNNN m nnn).toNat = m.toNat * 4096 + nnn.toNat := by
  have h : (packNNN m nnn).toNat = m.toNat <<< 12 ||| nnn.toNat := BitVec.toNat_append m nnn
  rw [h, ← Nat.shiftLeft_add_eq_or_of_lt nnn.isLt, Nat.shiftLeft_eq]

theorem packXNN_toNat (m : BitVec 4) (x : Reg) (nn : Byte) :
    (packXNN m x nn).toNat = m.toNat * 4096 + x.val * 256 + nn.toNat := by
  have h : (packXNN m x nn).toNat = (m ++ (BitVec.ofFin x : BitVec 4)).toNat <<< 8 ||| nn.toNat :=
    BitVec.toNat_append _ nn
  rw [h, BitVec.toNat_append, ← Nat.shiftLeft_add_eq_or_of_lt nn.isLt,
    ← Nat.shiftLeft_add_eq_or_of_lt (BitVec.isLt _), Nat.shiftLeft_eq, Nat.shiftLeft_eq]
  simp only [BitVec.toNat_ofFin]; omega

theorem packXYN_toNat (m : BitVec 4) (x y : Reg) (n : BitVec 4) :
    (packXYN m x y n).toNat = m.toNat * 4096 + x.val * 256 + y.val * 16 + n.toNat := by
  have h : (packXYN m x y n).toNat =
      (m ++ (BitVec.ofFin x : BitVec 4) ++ (BitVec.ofFin y : BitVec 4)).toNat <<< 4 ||| n.toNat :=
    BitVec.toNat_append _ n
  rw [h, BitVec.toNat_append, BitVec.toNat_append, ← Nat.shiftLeft_add_eq_or_of_lt n.isLt,
    ← Nat.shiftLeft_add_eq_or_of_lt (BitVec.isLt _), ← Nat.shiftLeft_add_eq_or_of_lt (BitVec.isLt _),
    Nat.shiftLeft_eq, Nat.shiftLeft_eq, Nat.shiftLeft_eq]
  simp only [BitVec.toNat_ofFin]; omega

theorem major_toNat (w : Word) : (major w).toNat = w.toNat / 4096 := by
  simp only [major, BitVec.extractLsb'_toNat, Nat.shiftRight_eq_div_pow]; omega

theorem fieldX_val (w : Word) : (fieldX w).val = w.toNat / 256 % 16 := by
  simp only [fieldX, BitVec.val_toFin, BitVec.extractLsb'_toNat, Nat.shiftRight_eq_div_pow]

theorem fieldY_val (w : Word) : (fieldY w).val = w.toNat / 16 % 16 := by
  simp only [fieldY, BitVec.val_toFin, BitVec.extractLsb'_toNat, Nat.shiftRight_eq_div_pow]

theorem fieldN_toNat (w : Word) : (fieldN w).toNat = w.toNat % 16 := by
  simp only [fieldN, BitVec.extractLsb'_toNat, Nat.shiftRight_eq_div_pow]; omega

theorem fieldNN_toNat (w : Word) : (fieldNN w).toNat = w.toNat % 256 := by
  simp only [fieldNN, BitVec.extractLsb'_toNat, Nat.shiftRight_eq_div_pow]; omega

theorem fieldNNN_toNat (w : Word) : (fieldNNN w).toNat = w.toNat % 4096 := by
  simp only [fieldNNN, BitVec.extractLsb'_toNat, Nat.shiftRight_eq_div_pow]; omega

/-! Fields of packed words -/

@[simp] theorem major_packNNN (m : BitVec 4) (nnn : Addr12) : major (packNNN m nnn) = m :=
  BitVec.eq_of_toNat_eq (by rw [major_toNat, packNNN_toNat]; omega)

@[simp] theorem fieldNNN_packNNN (m : BitVec 4) (nnn : Addr12) : fieldNNN (packNNN m nnn) = nnn :=
  BitVec.eq_of_toNat_eq (by rw [fieldNNN_toNat, packNNN_toNat]; omega)

@[simp] theorem major_packXNN (m : BitVec 4) (x : Reg) (nn : Byte) : major (packXNN m x nn) = m :=
  BitVec.eq_of_toNat_eq (by rw [major_toNat, packXNN_toNat]; omega)

@[simp] theorem fieldX_packXNN (m : BitVec 4) (x : Reg) (nn : Byte) : fieldX (packXNN m x nn) = x :=
  Fin.ext (by rw [fieldX_val, packXNN_toNat]; omega)

@[simp] theorem fieldNN_packXNN (m : BitVec 4) (x : Reg) (nn : Byte) : fieldNN (packXNN m x nn) = nn :=
  BitVec.eq_of_toNat_eq (by rw [fieldNN_toNat, packXNN_toNat]; omega)

@[simp] theorem major_packXYN (m : BitVec 4) (x y : Reg) (n : BitVec 4) : major (packXYN m x y n) = m :=
  BitVec.eq_of_toNat_eq (by rw [major_toNat, packXYN_toNat]; omega)

@[simp] theorem fieldX_packXYN (m : BitVec 4) (x y : Reg) (n : BitVec 4) : fieldX (packXYN m x y n) = x :=
  Fin.ext (by rw [fieldX_val, packXYN_toNat]; omega)

@[simp] theorem fieldY_packXYN (m : BitVec 4) (x y : Reg) (n : BitVec 4) : fieldY (packXYN m x y n) = y :=
  Fin.ext (by rw [fieldY_val, packXYN_toNat]; omega)

@[simp] theorem fieldN_packXYN (m : BitVec 4) (x y : Reg) (n : BitVec 4) : fieldN (packXYN m x y n) = n :=
  BitVec.eq_of_toNat_eq (by rw [fieldN_toNat, packXYN_toNat]; omega)

/-! A word from its fields, one lemma per format (R71: the fields overlap) -/

theorem packNNN_fields (w : Word) : packNNN (major w) (fieldNNN w) = w :=
  BitVec.eq_of_toNat_eq (by rw [packNNN_toNat, major_toNat, fieldNNN_toNat]; omega)

theorem packXNN_fields (w : Word) : packXNN (major w) (fieldX w) (fieldNN w) = w :=
  BitVec.eq_of_toNat_eq (by rw [packXNN_toNat, major_toNat, fieldX_val, fieldNN_toNat]; omega)

theorem packXYN_fields (w : Word) : packXYN (major w) (fieldX w) (fieldY w) (fieldN w) = w :=
  BitVec.eq_of_toNat_eq (by rw [packXYN_toNat, major_toNat, fieldX_val, fieldY_val, fieldN_toNat]; omega)

/-! The three masks of R75 keep the fixed fields and clear the others -/

theorem mask_F000 (w : Word) : w &&& 0xF000#16 = packNNN (major w) 0#12 := by
  refine BitVec.eq_of_getLsbD_eq fun j hj => ?_
  have h : (packNNN (major w) 0#12).getLsbD j = if j < 12 then (0#12).getLsbD j else (major w).getLsbD (j - 12) :=
    BitVec.getLsbD_append
  rw [h]
  interval_cases j <;> simp [major]

theorem mask_F00F (w : Word) : w &&& 0xF00F#16 = packXYN (major w) 0 0 (fieldN w) := by
  refine BitVec.eq_of_getLsbD_eq fun j hj => ?_
  have h : (packXYN (major w) 0 0 (fieldN w)).getLsbD j =
      if j < 4 then (fieldN w).getLsbD j else (major w ++ (0#4) ++ (0#4)).getLsbD (j - 4) :=
    BitVec.getLsbD_append
  rw [h, BitVec.getLsbD_append, BitVec.getLsbD_append]
  interval_cases j <;> simp [major, fieldN]

theorem mask_F0FF (w : Word) : w &&& 0xF0FF#16 = packXNN (major w) 0 (fieldNN w) := by
  refine BitVec.eq_of_getLsbD_eq fun j hj => ?_
  have h : (packXNN (major w) 0 (fieldNN w)).getLsbD j =
      if j < 8 then (fieldNN w).getLsbD j else (major w ++ (0#4)).getLsbD (j - 8) :=
    BitVec.getLsbD_append
  rw [h, BitVec.getLsbD_append]
  interval_cases j <;> simp [major, fieldNN]

/-- The word of the bytes of a word is the word (R54). -/
theorem wordOfBytes_bytes (w : Word) : wordOfBytes (w.extractLsb' 8 8) (w.extractLsb' 0 8) = w :=
  BitVec.eq_of_toNat_eq (by
    rw [wordOfBytes_toNat]
    simp only [BitVec.extractLsb'_toNat, Nat.shiftRight_eq_div_pow]; omega)

/-- The one error of a word: it matches no row, and the error names it (R76). -/
theorem decode_error {w : Word} {e : DecodeError} (h : decode w = .error e) : e = .unmatchedPattern w := by
  unfold decode at h
  split at h <;> try simp only [decodeMajor0, decodeNibbleZero, decodeMajor8, decodeMajorE, decodeMajorF] at h
  all_goals try split at h
  all_goals cases h
  all_goals rfl

end Sys2Proof
end

