-- ==== Sys2Proof/Laws/Memory.lean ====
section
/-! SUPPORT. The laws of `MEM` (spec/20_memory.md R50, R51, R58): a read after a write, the canonical form and that
every operation keeps it, and that equal reads are equal memories. -/

namespace Sys2Proof.Machine

theorem resetByte_of_le {a : Nat} (h : 80 ≤ a) : resetByte a = 0x00#8 := by
  have : ¬ a < 80 := by omega
  simp [resetByte, Config.fontBase, Config.fontSize, this]

/-- A write leaves every other address alone, whatever the memory. -/
theorem Memory.read_write_of_ne (m : Memory) {a a' : Nat} (b : Byte) (h : a' ≠ a) :
    (m.write a b).read a' = m.read a' := by
  induction m with
  | nil => simp only [Memory.write]; split <;> simp [Memory.read, Ne.symm h]
  | cons e m ih =>
    obtain ⟨k, c⟩ := e
    simp only [Memory.write]
    split
    · split <;> simp [Memory.read, Ne.symm h]
    · split
      · subst k; split <;> simp [Memory.read, Ne.symm h]
      · simp [Memory.read, ih]

/-- An address below every entry reads as the reset contents. -/
theorem Memory.read_of_wfFrom {m : Memory} {lo a : Nat} (hm : m.wfFrom lo = true) (h : a < lo) :
    m.read a = resetByte a := by
  induction m generalizing lo with
  | nil => rfl
  | cons e m ih =>
    obtain ⟨k, c⟩ := e
    simp only [Memory.wfFrom, Bool.and_eq_true, decide_eq_true_eq] at hm
    simp [Memory.read, show k ≠ a by omega, ih hm.2 (by omega)]

theorem Memory.wfFrom_mono {m : Memory} {lo lo' : Nat} (hm : m.wfFrom lo = true) (h : lo' ≤ lo) :
    m.wfFrom lo' = true := by
  cases m with
  | nil => rfl
  | cons e m =>
    simp only [Memory.wfFrom, Bool.and_eq_true, decide_eq_true_eq] at hm ⊢
    exact ⟨⟨⟨by omega, hm.1.1.2⟩, hm.1.2⟩, hm.2⟩

theorem Memory.read_write_self_from {m : Memory} {lo a : Nat} (b : Byte) (hm : m.wfFrom lo = true) :
    (m.write a b).read a = b := by
  induction m generalizing lo with
  | nil => simp only [Memory.write]; split <;> simp [Memory.read, *]
  | cons e m ih =>
    obtain ⟨k, c⟩ := e
    have h' := hm
    simp only [Memory.wfFrom, Bool.and_eq_true, decide_eq_true_eq] at h'
    simp only [Memory.write]
    split
    · rename_i hlt
      split
      · rename_i hb
        simp [Memory.read, show k ≠ a by omega, Memory.read_of_wfFrom h'.2 (show a < k + 1 by omega), hb]
      · simp [Memory.read]
    · split
      · subst k
        split
        · rename_i hb; rw [Memory.read_of_wfFrom h'.2 (Nat.lt_succ_self a), hb]
        · simp [Memory.read]
      · rename_i hne
        simp [Memory.read, Ne.symm hne, ih h'.2]

/-- A read of the address just written gives the byte written (R58). -/
theorem Memory.read_write_self {m : Memory} {a : Nat} (b : Byte) (hm : m.wf = true) : (m.write a b).read a = b :=
  Memory.read_write_self_from b hm

theorem Memory.wfFrom_write {m : Memory} {lo a : Nat} (b : Byte) (hm : m.wfFrom lo = true) (hlo : lo ≤ a)
    (ha : Mapped a) : (m.write a b).wfFrom lo = true := by
  induction m generalizing lo with
  | nil => simp only [Memory.write]; split <;> simp [Memory.wfFrom, *]
  | cons e m ih =>
    obtain ⟨k, c⟩ := e
    have h' := hm
    simp only [Memory.wfFrom, Bool.and_eq_true, decide_eq_true_eq, bne_iff_ne] at h'
    simp only [Memory.write]
    split
    · split
      · exact hm
      · simp only [Memory.wfFrom, Bool.and_eq_true, decide_eq_true_eq, bne_iff_ne]
        exact ⟨⟨⟨hlo, ha⟩, by assumption⟩, ⟨⟨by omega, h'.1.1.2⟩, h'.1.2⟩, h'.2⟩
    · split
      · subst k
        split
        · exact Memory.wfFrom_mono h'.2 (by omega)
        · simp only [Memory.wfFrom, Bool.and_eq_true, decide_eq_true_eq, bne_iff_ne]
          exact ⟨⟨⟨hlo, ha⟩, by assumption⟩, h'.2⟩
      · simp only [Memory.wfFrom, Bool.and_eq_true, decide_eq_true_eq, bne_iff_ne]
        exact ⟨h'.1, ih h'.2 (by omega)⟩

/-- A write of a mapped address keeps the canonical form. -/
theorem Memory.wf_write {m : Memory} {a : Nat} (b : Byte) (hm : m.wf = true) (ha : Mapped a) :
    (m.write a b).wf = true :=
  Memory.wfFrom_write b hm (Nat.zero_le a) ha

/-- A block that lies in `MEM` keeps the canonical form. -/
theorem Memory.wf_writeBlock {m : Memory} {a : Nat} {bs : List Byte} (hm : m.wf = true)
    (h : a + bs.length ≤ Config.memSize) : (m.writeBlock a bs).wf = true := by
  induction bs generalizing m a with
  | nil => exact hm
  | cons b bs ih =>
    simp only [List.length_cons] at h
    exact ih (Memory.wf_write b hm (show a < Config.memSize by omega)) (by omega)

/-- A block leaves every address outside it alone, whatever the memory. -/
theorem Memory.read_writeBlock_of_not_mem (m : Memory) {a a' : Nat} (bs : List Byte)
    (h : a' < a ∨ a + bs.length ≤ a') : (m.writeBlock a bs).read a' = m.read a' := by
  induction bs generalizing m a with
  | nil => rfl
  | cons b bs ih =>
    simp only [List.length_cons] at h
    rw [Memory.writeBlock, ih _ (by omega), Memory.read_write_of_ne _ _ (by omega)]

/-- Byte `k` of a stored block. -/
theorem Memory.read_writeBlock {m : Memory} {a k : Nat} {bs : List Byte} (hm : m.wf = true)
    (h : a + bs.length ≤ Config.memSize) (hk : k < bs.length) : (m.writeBlock a bs).read (a + k) = bs[k] := by
  induction bs generalizing m a k with
  | nil => simp at hk
  | cons b bs ih =>
    simp only [List.length_cons] at h hk
    have hw := Memory.wf_write b hm (show a < Config.memSize by omega)
    cases k with
    | zero =>
      rw [Memory.writeBlock, Memory.read_writeBlock_of_not_mem _ _ (by omega)]
      exact Memory.read_write_self b hm
    | succ k =>
      rw [Memory.writeBlock, show a + (k + 1) = a + 1 + k by omega, ih hw (by omega) (by omega)]
      rfl

theorem Memory.eq_of_read_from {m m' : Memory} {lo : Nat} (hm : m.wfFrom lo = true) (hm' : m'.wfFrom lo = true)
    (h : ∀ a, lo ≤ a → m.read a = m'.read a) : m = m' := by
  induction m generalizing m' lo with
  | nil =>
    cases m' with
    | nil => rfl
    | cons e m' =>
      obtain ⟨k, c⟩ := e
      simp only [Memory.wfFrom, Bool.and_eq_true, decide_eq_true_eq, bne_iff_ne] at hm'
      exact absurd (by simpa [Memory.read] using (h k hm'.1.1.1).symm) hm'.1.2
  | cons e m ih =>
    obtain ⟨k, c⟩ := e
    have hm0 := hm
    simp only [Memory.wfFrom, Bool.and_eq_true, decide_eq_true_eq, bne_iff_ne] at hm
    have hk : c = m'.read k := by simpa [Memory.read] using h k hm.1.1.1
    cases m' with
    | nil => exact absurd hk hm.1.2
    | cons e' m' =>
      obtain ⟨k', c'⟩ := e'
      simp only [Memory.wfFrom, Bool.and_eq_true, decide_eq_true_eq, bne_iff_ne] at hm'
      have hk' := h k' hm'.1.1.1
      simp only [Memory.read, if_true] at hk'
      have hkk : k = k' := by
        rcases Nat.lt_trichotomy k k' with hlt | heq | hgt
        · rw [Memory.read, if_neg (by omega), Memory.read_of_wfFrom hm'.2 (by omega)] at hk
          exact absurd hk hm.1.2
        · exact heq
        · rw [if_neg (by omega), Memory.read_of_wfFrom hm.2 (by omega)] at hk'
          exact absurd hk'.symm hm'.1.2
      subst hkk
      simp only [Memory.read, if_true] at hk
      subst hk
      congr 1
      refine ih hm.2 hm'.2 fun a ha => ?_
      have := h a (by omega)
      simpa [Memory.read, show k ≠ a by omega] using this

/-- Equal memories are equal data: two memories in canonical form that read alike are the same list. -/
theorem Memory.eq_of_read {m m' : Memory} (hm : m.wf = true) (hm' : m'.wf = true)
    (h : ∀ a, m.read a = m'.read a) : m = m' :=
  Memory.eq_of_read_from hm hm' fun a _ => h a

theorem reset_mem_wf : State.reset.mem.wf = true := rfl

end Sys2Proof.Machine
end

