-- ==== Sys2Proof/Laws/State.lean ====
section
/-! SUPPORT. What each update of the state does to each field and to each read: true by rfl, tagged simp, so that no
proof unfolds a record update. -/

namespace Sys2Proof.Machine

/-! `setReg` -/

@[simp] theorem State.setReg_v (s : State) (x : Reg) (b : Byte) : (s.setReg x b).v = s.v.set x.val b x.isLt := rfl
@[simp] theorem State.setReg_i (s : State) (x : Reg) (b : Byte) : (s.setReg x b).i = s.i := rfl
@[simp] theorem State.setReg_pc (s : State) (x : Reg) (b : Byte) : (s.setReg x b).pc = s.pc := rfl
@[simp] theorem State.setReg_sp (s : State) (x : Reg) (b : Byte) : (s.setReg x b).sp = s.sp := rfl
@[simp] theorem State.setReg_stack (s : State) (x : Reg) (b : Byte) : (s.setReg x b).stack = s.stack := rfl
@[simp] theorem State.setReg_mem (s : State) (x : Reg) (b : Byte) : (s.setReg x b).mem = s.mem := rfl
@[simp] theorem State.setReg_fb (s : State) (x : Reg) (b : Byte) : (s.setReg x b).fb = s.fb := rfl
@[simp] theorem State.setReg_dirty (s : State) (x : Reg) (b : Byte) : (s.setReg x b).dirty = s.dirty := rfl
@[simp] theorem State.setReg_keys (s : State) (x : Reg) (b : Byte) : (s.setReg x b).keys = s.keys := rfl
@[simp] theorem State.setReg_dt (s : State) (x : Reg) (b : Byte) : (s.setReg x b).dt = s.dt := rfl
@[simp] theorem State.setReg_st (s : State) (x : Reg) (b : Byte) : (s.setReg x b).st = s.st := rfl
@[simp] theorem State.setReg_halt (s : State) (x : Reg) (b : Byte) : (s.setReg x b).halt = s.halt := rfl
@[simp] theorem State.setReg_fault (s : State) (x : Reg) (b : Byte) : (s.setReg x b).fault = s.fault := rfl
@[simp] theorem State.setReg_draws (s : State) (x : Reg) (b : Byte) : (s.setReg x b).draws = s.draws := rfl
@[simp] theorem State.setReg_slot (s : State) (x : Reg) (b : Byte) (k : Fin 16) : (s.setReg x b).slot k = s.slot k := rfl
@[simp] theorem State.setReg_pixel (s : State) (x : Reg) (b : Byte) (y : Fin 32) (c : Fin 64) : (s.setReg x b).pixel y c = s.pixel y c := rfl

/-! `setRegs` -/

@[simp] theorem State.setRegs_v (s : State) (w : Vector Byte 16) : (s.setRegs w).v = w := rfl
@[simp] theorem State.setRegs_i (s : State) (w : Vector Byte 16) : (s.setRegs w).i = s.i := rfl
@[simp] theorem State.setRegs_pc (s : State) (w : Vector Byte 16) : (s.setRegs w).pc = s.pc := rfl
@[simp] theorem State.setRegs_sp (s : State) (w : Vector Byte 16) : (s.setRegs w).sp = s.sp := rfl
@[simp] theorem State.setRegs_stack (s : State) (w : Vector Byte 16) : (s.setRegs w).stack = s.stack := rfl
@[simp] theorem State.setRegs_mem (s : State) (w : Vector Byte 16) : (s.setRegs w).mem = s.mem := rfl
@[simp] theorem State.setRegs_fb (s : State) (w : Vector Byte 16) : (s.setRegs w).fb = s.fb := rfl
@[simp] theorem State.setRegs_dirty (s : State) (w : Vector Byte 16) : (s.setRegs w).dirty = s.dirty := rfl
@[simp] theorem State.setRegs_keys (s : State) (w : Vector Byte 16) : (s.setRegs w).keys = s.keys := rfl
@[simp] theorem State.setRegs_dt (s : State) (w : Vector Byte 16) : (s.setRegs w).dt = s.dt := rfl
@[simp] theorem State.setRegs_st (s : State) (w : Vector Byte 16) : (s.setRegs w).st = s.st := rfl
@[simp] theorem State.setRegs_halt (s : State) (w : Vector Byte 16) : (s.setRegs w).halt = s.halt := rfl
@[simp] theorem State.setRegs_fault (s : State) (w : Vector Byte 16) : (s.setRegs w).fault = s.fault := rfl
@[simp] theorem State.setRegs_draws (s : State) (w : Vector Byte 16) : (s.setRegs w).draws = s.draws := rfl
@[simp] theorem State.setRegs_slot (s : State) (w : Vector Byte 16) (k : Fin 16) : (s.setRegs w).slot k = s.slot k := rfl
@[simp] theorem State.setRegs_pixel (s : State) (w : Vector Byte 16) (y : Fin 32) (c : Fin 64) : (s.setRegs w).pixel y c = s.pixel y c := rfl

/-! `setI` -/

@[simp] theorem State.setI_v (s : State) (w : Word) : (s.setI w).v = s.v := rfl
@[simp] theorem State.setI_i (s : State) (w : Word) : (s.setI w).i = w := rfl
@[simp] theorem State.setI_pc (s : State) (w : Word) : (s.setI w).pc = s.pc := rfl
@[simp] theorem State.setI_sp (s : State) (w : Word) : (s.setI w).sp = s.sp := rfl
@[simp] theorem State.setI_stack (s : State) (w : Word) : (s.setI w).stack = s.stack := rfl
@[simp] theorem State.setI_mem (s : State) (w : Word) : (s.setI w).mem = s.mem := rfl
@[simp] theorem State.setI_fb (s : State) (w : Word) : (s.setI w).fb = s.fb := rfl
@[simp] theorem State.setI_dirty (s : State) (w : Word) : (s.setI w).dirty = s.dirty := rfl
@[simp] theorem State.setI_keys (s : State) (w : Word) : (s.setI w).keys = s.keys := rfl
@[simp] theorem State.setI_dt (s : State) (w : Word) : (s.setI w).dt = s.dt := rfl
@[simp] theorem State.setI_st (s : State) (w : Word) : (s.setI w).st = s.st := rfl
@[simp] theorem State.setI_halt (s : State) (w : Word) : (s.setI w).halt = s.halt := rfl
@[simp] theorem State.setI_fault (s : State) (w : Word) : (s.setI w).fault = s.fault := rfl
@[simp] theorem State.setI_draws (s : State) (w : Word) : (s.setI w).draws = s.draws := rfl
@[simp] theorem State.setI_reg (s : State) (w : Word) (k : Reg) : (s.setI w).reg k = s.reg k := rfl
@[simp] theorem State.setI_slot (s : State) (w : Word) (k : Fin 16) : (s.setI w).slot k = s.slot k := rfl
@[simp] theorem State.setI_pixel (s : State) (w : Word) (y : Fin 32) (c : Fin 64) : (s.setI w).pixel y c = s.pixel y c := rfl

/-! `setIndexSum` -/

@[simp] theorem State.setIndexSum_v (s : State) (w : Word) : (s.setIndexSum w).v = s.v := rfl
@[simp] theorem State.setIndexSum_i (s : State) (w : Word) : (s.setIndexSum w).i = w := rfl
@[simp] theorem State.setIndexSum_pc (s : State) (w : Word) : (s.setIndexSum w).pc = s.pc := rfl
@[simp] theorem State.setIndexSum_sp (s : State) (w : Word) : (s.setIndexSum w).sp = s.sp := rfl
@[simp] theorem State.setIndexSum_stack (s : State) (w : Word) : (s.setIndexSum w).stack = s.stack := rfl
@[simp] theorem State.setIndexSum_mem (s : State) (w : Word) : (s.setIndexSum w).mem = s.mem := rfl
@[simp] theorem State.setIndexSum_fb (s : State) (w : Word) : (s.setIndexSum w).fb = s.fb := rfl
@[simp] theorem State.setIndexSum_dirty (s : State) (w : Word) : (s.setIndexSum w).dirty = s.dirty := rfl
@[simp] theorem State.setIndexSum_keys (s : State) (w : Word) : (s.setIndexSum w).keys = s.keys := rfl
@[simp] theorem State.setIndexSum_dt (s : State) (w : Word) : (s.setIndexSum w).dt = s.dt := rfl
@[simp] theorem State.setIndexSum_st (s : State) (w : Word) : (s.setIndexSum w).st = s.st := rfl
@[simp] theorem State.setIndexSum_halt (s : State) (w : Word) : (s.setIndexSum w).halt = s.halt := rfl
@[simp] theorem State.setIndexSum_fault (s : State) (w : Word) : (s.setIndexSum w).fault = s.fault := rfl
@[simp] theorem State.setIndexSum_draws (s : State) (w : Word) : (s.setIndexSum w).draws = s.draws := rfl
@[simp] theorem State.setIndexSum_reg (s : State) (w : Word) (k : Reg) : (s.setIndexSum w).reg k = s.reg k := rfl
@[simp] theorem State.setIndexSum_slot (s : State) (w : Word) (k : Fin 16) : (s.setIndexSum w).slot k = s.slot k := rfl
@[simp] theorem State.setIndexSum_pixel (s : State) (w : Word) (y : Fin 32) (c : Fin 64) : (s.setIndexSum w).pixel y c = s.pixel y c := rfl

/-! `setPc` -/

@[simp] theorem State.setPc_v (s : State) (w : Word) : (s.setPc w).v = s.v := rfl
@[simp] theorem State.setPc_i (s : State) (w : Word) : (s.setPc w).i = s.i := rfl
@[simp] theorem State.setPc_pc (s : State) (w : Word) : (s.setPc w).pc = w := rfl
@[simp] theorem State.setPc_sp (s : State) (w : Word) : (s.setPc w).sp = s.sp := rfl
@[simp] theorem State.setPc_stack (s : State) (w : Word) : (s.setPc w).stack = s.stack := rfl
@[simp] theorem State.setPc_mem (s : State) (w : Word) : (s.setPc w).mem = s.mem := rfl
@[simp] theorem State.setPc_fb (s : State) (w : Word) : (s.setPc w).fb = s.fb := rfl
@[simp] theorem State.setPc_dirty (s : State) (w : Word) : (s.setPc w).dirty = s.dirty := rfl
@[simp] theorem State.setPc_keys (s : State) (w : Word) : (s.setPc w).keys = s.keys := rfl
@[simp] theorem State.setPc_dt (s : State) (w : Word) : (s.setPc w).dt = s.dt := rfl
@[simp] theorem State.setPc_st (s : State) (w : Word) : (s.setPc w).st = s.st := rfl
@[simp] theorem State.setPc_halt (s : State) (w : Word) : (s.setPc w).halt = s.halt := rfl
@[simp] theorem State.setPc_fault (s : State) (w : Word) : (s.setPc w).fault = s.fault := rfl
@[simp] theorem State.setPc_draws (s : State) (w : Word) : (s.setPc w).draws = s.draws := rfl
@[simp] theorem State.setPc_reg (s : State) (w : Word) (k : Reg) : (s.setPc w).reg k = s.reg k := rfl
@[simp] theorem State.setPc_slot (s : State) (w : Word) (k : Fin 16) : (s.setPc w).slot k = s.slot k := rfl
@[simp] theorem State.setPc_pixel (s : State) (w : Word) (y : Fin 32) (c : Fin 64) : (s.setPc w).pixel y c = s.pixel y c := rfl

/-! `advance` -/

@[simp] theorem State.advance_v (s : State) : s.advance.v = s.v := rfl
@[simp] theorem State.advance_i (s : State) : s.advance.i = s.i := rfl
@[simp] theorem State.advance_pc (s : State) : s.advance.pc = s.pc + 2#16 := rfl
@[simp] theorem State.advance_sp (s : State) : s.advance.sp = s.sp := rfl
@[simp] theorem State.advance_stack (s : State) : s.advance.stack = s.stack := rfl
@[simp] theorem State.advance_mem (s : State) : s.advance.mem = s.mem := rfl
@[simp] theorem State.advance_fb (s : State) : s.advance.fb = s.fb := rfl
@[simp] theorem State.advance_dirty (s : State) : s.advance.dirty = s.dirty := rfl
@[simp] theorem State.advance_keys (s : State) : s.advance.keys = s.keys := rfl
@[simp] theorem State.advance_dt (s : State) : s.advance.dt = s.dt := rfl
@[simp] theorem State.advance_st (s : State) : s.advance.st = s.st := rfl
@[simp] theorem State.advance_halt (s : State) : s.advance.halt = s.halt := rfl
@[simp] theorem State.advance_fault (s : State) : s.advance.fault = s.fault := rfl
@[simp] theorem State.advance_draws (s : State) : s.advance.draws = s.draws := rfl
@[simp] theorem State.advance_reg (s : State) (k : Reg) : s.advance.reg k = s.reg k := rfl
@[simp] theorem State.advance_slot (s : State) (k : Fin 16) : s.advance.slot k = s.slot k := rfl
@[simp] theorem State.advance_pixel (s : State) (y : Fin 32) (c : Fin 64) : s.advance.pixel y c = s.pixel y c := rfl

/-! `skipIf` -/

@[simp] theorem State.skipIf_v (s : State) (c : Bool) : (s.skipIf c).v = s.v := rfl
@[simp] theorem State.skipIf_i (s : State) (c : Bool) : (s.skipIf c).i = s.i := rfl
@[simp] theorem State.skipIf_pc (s : State) (c : Bool) : (s.skipIf c).pc = if c then s.pc + 4#16 else s.pc + 2#16 := rfl
@[simp] theorem State.skipIf_sp (s : State) (c : Bool) : (s.skipIf c).sp = s.sp := rfl
@[simp] theorem State.skipIf_stack (s : State) (c : Bool) : (s.skipIf c).stack = s.stack := rfl
@[simp] theorem State.skipIf_mem (s : State) (c : Bool) : (s.skipIf c).mem = s.mem := rfl
@[simp] theorem State.skipIf_fb (s : State) (c : Bool) : (s.skipIf c).fb = s.fb := rfl
@[simp] theorem State.skipIf_dirty (s : State) (c : Bool) : (s.skipIf c).dirty = s.dirty := rfl
@[simp] theorem State.skipIf_keys (s : State) (c : Bool) : (s.skipIf c).keys = s.keys := rfl
@[simp] theorem State.skipIf_dt (s : State) (c : Bool) : (s.skipIf c).dt = s.dt := rfl
@[simp] theorem State.skipIf_st (s : State) (c : Bool) : (s.skipIf c).st = s.st := rfl
@[simp] theorem State.skipIf_halt (s : State) (c : Bool) : (s.skipIf c).halt = s.halt := rfl
@[simp] theorem State.skipIf_fault (s : State) (c : Bool) : (s.skipIf c).fault = s.fault := rfl
@[simp] theorem State.skipIf_draws (s : State) (c : Bool) : (s.skipIf c).draws = s.draws := rfl
@[simp] theorem State.skipIf_reg (s : State) (c : Bool) (k : Reg) : (s.skipIf c).reg k = s.reg k := rfl
@[simp] theorem State.skipIf_slot (s : State) (c : Bool) (k : Fin 16) : (s.skipIf c).slot k = s.slot k := rfl
@[simp] theorem State.skipIf_pixel (s : State) (c : Bool) (y : Fin 32) (q : Fin 64) : (s.skipIf c).pixel y q = s.pixel y q := rfl

/-! `setSp` -/

@[simp] theorem State.setSp_v (s : State) (d : BitVec 5) : (s.setSp d).v = s.v := rfl
@[simp] theorem State.setSp_i (s : State) (d : BitVec 5) : (s.setSp d).i = s.i := rfl
@[simp] theorem State.setSp_pc (s : State) (d : BitVec 5) : (s.setSp d).pc = s.pc := rfl
@[simp] theorem State.setSp_sp (s : State) (d : BitVec 5) : (s.setSp d).sp = d := rfl
@[simp] theorem State.setSp_stack (s : State) (d : BitVec 5) : (s.setSp d).stack = s.stack := rfl
@[simp] theorem State.setSp_mem (s : State) (d : BitVec 5) : (s.setSp d).mem = s.mem := rfl
@[simp] theorem State.setSp_fb (s : State) (d : BitVec 5) : (s.setSp d).fb = s.fb := rfl
@[simp] theorem State.setSp_dirty (s : State) (d : BitVec 5) : (s.setSp d).dirty = s.dirty := rfl
@[simp] theorem State.setSp_keys (s : State) (d : BitVec 5) : (s.setSp d).keys = s.keys := rfl
@[simp] theorem State.setSp_dt (s : State) (d : BitVec 5) : (s.setSp d).dt = s.dt := rfl
@[simp] theorem State.setSp_st (s : State) (d : BitVec 5) : (s.setSp d).st = s.st := rfl
@[simp] theorem State.setSp_halt (s : State) (d : BitVec 5) : (s.setSp d).halt = s.halt := rfl
@[simp] theorem State.setSp_fault (s : State) (d : BitVec 5) : (s.setSp d).fault = s.fault := rfl
@[simp] theorem State.setSp_draws (s : State) (d : BitVec 5) : (s.setSp d).draws = s.draws := rfl
@[simp] theorem State.setSp_reg (s : State) (d : BitVec 5) (k : Reg) : (s.setSp d).reg k = s.reg k := rfl
@[simp] theorem State.setSp_slot (s : State) (d : BitVec 5) (k : Fin 16) : (s.setSp d).slot k = s.slot k := rfl
@[simp] theorem State.setSp_pixel (s : State) (d : BitVec 5) (y : Fin 32) (c : Fin 64) : (s.setSp d).pixel y c = s.pixel y c := rfl

/-! `setSlot` -/

@[simp] theorem State.setSlot_v (s : State) (j : Fin 16) (w : Word) : (s.setSlot j w).v = s.v := rfl
@[simp] theorem State.setSlot_i (s : State) (j : Fin 16) (w : Word) : (s.setSlot j w).i = s.i := rfl
@[simp] theorem State.setSlot_pc (s : State) (j : Fin 16) (w : Word) : (s.setSlot j w).pc = s.pc := rfl
@[simp] theorem State.setSlot_sp (s : State) (j : Fin 16) (w : Word) : (s.setSlot j w).sp = s.sp := rfl
@[simp] theorem State.setSlot_stack (s : State) (j : Fin 16) (w : Word) : (s.setSlot j w).stack = s.stack.set j.val w j.isLt := rfl
@[simp] theorem State.setSlot_mem (s : State) (j : Fin 16) (w : Word) : (s.setSlot j w).mem = s.mem := rfl
@[simp] theorem State.setSlot_fb (s : State) (j : Fin 16) (w : Word) : (s.setSlot j w).fb = s.fb := rfl
@[simp] theorem State.setSlot_dirty (s : State) (j : Fin 16) (w : Word) : (s.setSlot j w).dirty = s.dirty := rfl
@[simp] theorem State.setSlot_keys (s : State) (j : Fin 16) (w : Word) : (s.setSlot j w).keys = s.keys := rfl
@[simp] theorem State.setSlot_dt (s : State) (j : Fin 16) (w : Word) : (s.setSlot j w).dt = s.dt := rfl
@[simp] theorem State.setSlot_st (s : State) (j : Fin 16) (w : Word) : (s.setSlot j w).st = s.st := rfl
@[simp] theorem State.setSlot_halt (s : State) (j : Fin 16) (w : Word) : (s.setSlot j w).halt = s.halt := rfl
@[simp] theorem State.setSlot_fault (s : State) (j : Fin 16) (w : Word) : (s.setSlot j w).fault = s.fault := rfl
@[simp] theorem State.setSlot_draws (s : State) (j : Fin 16) (w : Word) : (s.setSlot j w).draws = s.draws := rfl
@[simp] theorem State.setSlot_reg (s : State) (j : Fin 16) (w : Word) (k : Reg) : (s.setSlot j w).reg k = s.reg k := rfl
@[simp] theorem State.setSlot_pixel (s : State) (j : Fin 16) (w : Word) (y : Fin 32) (c : Fin 64) : (s.setSlot j w).pixel y c = s.pixel y c := rfl

/-! `setMem` -/

@[simp] theorem State.setMem_v (s : State) (m : Memory) : (s.setMem m).v = s.v := rfl
@[simp] theorem State.setMem_i (s : State) (m : Memory) : (s.setMem m).i = s.i := rfl
@[simp] theorem State.setMem_pc (s : State) (m : Memory) : (s.setMem m).pc = s.pc := rfl
@[simp] theorem State.setMem_sp (s : State) (m : Memory) : (s.setMem m).sp = s.sp := rfl
@[simp] theorem State.setMem_stack (s : State) (m : Memory) : (s.setMem m).stack = s.stack := rfl
@[simp] theorem State.setMem_mem (s : State) (m : Memory) : (s.setMem m).mem = m := rfl
@[simp] theorem State.setMem_fb (s : State) (m : Memory) : (s.setMem m).fb = s.fb := rfl
@[simp] theorem State.setMem_dirty (s : State) (m : Memory) : (s.setMem m).dirty = s.dirty := rfl
@[simp] theorem State.setMem_keys (s : State) (m : Memory) : (s.setMem m).keys = s.keys := rfl
@[simp] theorem State.setMem_dt (s : State) (m : Memory) : (s.setMem m).dt = s.dt := rfl
@[simp] theorem State.setMem_st (s : State) (m : Memory) : (s.setMem m).st = s.st := rfl
@[simp] theorem State.setMem_halt (s : State) (m : Memory) : (s.setMem m).halt = s.halt := rfl
@[simp] theorem State.setMem_fault (s : State) (m : Memory) : (s.setMem m).fault = s.fault := rfl
@[simp] theorem State.setMem_draws (s : State) (m : Memory) : (s.setMem m).draws = s.draws := rfl
@[simp] theorem State.setMem_reg (s : State) (m : Memory) (k : Reg) : (s.setMem m).reg k = s.reg k := rfl
@[simp] theorem State.setMem_slot (s : State) (m : Memory) (k : Fin 16) : (s.setMem m).slot k = s.slot k := rfl
@[simp] theorem State.setMem_pixel (s : State) (m : Memory) (y : Fin 32) (c : Fin 64) : (s.setMem m).pixel y c = s.pixel y c := rfl

/-! `setFb` -/

@[simp] theorem State.setFb_v (s : State) (f : Screen) : (s.setFb f).v = s.v := rfl
@[simp] theorem State.setFb_i (s : State) (f : Screen) : (s.setFb f).i = s.i := rfl
@[simp] theorem State.setFb_pc (s : State) (f : Screen) : (s.setFb f).pc = s.pc := rfl
@[simp] theorem State.setFb_sp (s : State) (f : Screen) : (s.setFb f).sp = s.sp := rfl
@[simp] theorem State.setFb_stack (s : State) (f : Screen) : (s.setFb f).stack = s.stack := rfl
@[simp] theorem State.setFb_mem (s : State) (f : Screen) : (s.setFb f).mem = s.mem := rfl
@[simp] theorem State.setFb_fb (s : State) (f : Screen) : (s.setFb f).fb = f := rfl
@[simp] theorem State.setFb_dirty (s : State) (f : Screen) : (s.setFb f).dirty = s.dirty := rfl
@[simp] theorem State.setFb_keys (s : State) (f : Screen) : (s.setFb f).keys = s.keys := rfl
@[simp] theorem State.setFb_dt (s : State) (f : Screen) : (s.setFb f).dt = s.dt := rfl
@[simp] theorem State.setFb_st (s : State) (f : Screen) : (s.setFb f).st = s.st := rfl
@[simp] theorem State.setFb_halt (s : State) (f : Screen) : (s.setFb f).halt = s.halt := rfl
@[simp] theorem State.setFb_fault (s : State) (f : Screen) : (s.setFb f).fault = s.fault := rfl
@[simp] theorem State.setFb_draws (s : State) (f : Screen) : (s.setFb f).draws = s.draws := rfl
@[simp] theorem State.setFb_reg (s : State) (f : Screen) (k : Reg) : (s.setFb f).reg k = s.reg k := rfl
@[simp] theorem State.setFb_slot (s : State) (f : Screen) (k : Fin 16) : (s.setFb f).slot k = s.slot k := rfl

/-! `setDirty` -/

@[simp] theorem State.setDirty_v (s : State) (d : Bool) : (s.setDirty d).v = s.v := rfl
@[simp] theorem State.setDirty_i (s : State) (d : Bool) : (s.setDirty d).i = s.i := rfl
@[simp] theorem State.setDirty_pc (s : State) (d : Bool) : (s.setDirty d).pc = s.pc := rfl
@[simp] theorem State.setDirty_sp (s : State) (d : Bool) : (s.setDirty d).sp = s.sp := rfl
@[simp] theorem State.setDirty_stack (s : State) (d : Bool) : (s.setDirty d).stack = s.stack := rfl
@[simp] theorem State.setDirty_mem (s : State) (d : Bool) : (s.setDirty d).mem = s.mem := rfl
@[simp] theorem State.setDirty_fb (s : State) (d : Bool) : (s.setDirty d).fb = s.fb := rfl
@[simp] theorem State.setDirty_dirty (s : State) (d : Bool) : (s.setDirty d).dirty = d := rfl
@[simp] theorem State.setDirty_keys (s : State) (d : Bool) : (s.setDirty d).keys = s.keys := rfl
@[simp] theorem State.setDirty_dt (s : State) (d : Bool) : (s.setDirty d).dt = s.dt := rfl
@[simp] theorem State.setDirty_st (s : State) (d : Bool) : (s.setDirty d).st = s.st := rfl
@[simp] theorem State.setDirty_halt (s : State) (d : Bool) : (s.setDirty d).halt = s.halt := rfl
@[simp] theorem State.setDirty_fault (s : State) (d : Bool) : (s.setDirty d).fault = s.fault := rfl
@[simp] theorem State.setDirty_draws (s : State) (d : Bool) : (s.setDirty d).draws = s.draws := rfl
@[simp] theorem State.setDirty_reg (s : State) (d : Bool) (k : Reg) : (s.setDirty d).reg k = s.reg k := rfl
@[simp] theorem State.setDirty_slot (s : State) (d : Bool) (k : Fin 16) : (s.setDirty d).slot k = s.slot k := rfl
@[simp] theorem State.setDirty_pixel (s : State) (d : Bool) (y : Fin 32) (c : Fin 64) : (s.setDirty d).pixel y c = s.pixel y c := rfl

/-! `setKeys` -/

@[simp] theorem State.setKeys_v (s : State) (w : Word) : (s.setKeys w).v = s.v := rfl
@[simp] theorem State.setKeys_i (s : State) (w : Word) : (s.setKeys w).i = s.i := rfl
@[simp] theorem State.setKeys_pc (s : State) (w : Word) : (s.setKeys w).pc = s.pc := rfl
@[simp] theorem State.setKeys_sp (s : State) (w : Word) : (s.setKeys w).sp = s.sp := rfl
@[simp] theorem State.setKeys_stack (s : State) (w : Word) : (s.setKeys w).stack = s.stack := rfl
@[simp] theorem State.setKeys_mem (s : State) (w : Word) : (s.setKeys w).mem = s.mem := rfl
@[simp] theorem State.setKeys_fb (s : State) (w : Word) : (s.setKeys w).fb = s.fb := rfl
@[simp] theorem State.setKeys_dirty (s : State) (w : Word) : (s.setKeys w).dirty = s.dirty := rfl
@[simp] theorem State.setKeys_keys (s : State) (w : Word) : (s.setKeys w).keys = w := rfl
@[simp] theorem State.setKeys_dt (s : State) (w : Word) : (s.setKeys w).dt = s.dt := rfl
@[simp] theorem State.setKeys_st (s : State) (w : Word) : (s.setKeys w).st = s.st := rfl
@[simp] theorem State.setKeys_halt (s : State) (w : Word) : (s.setKeys w).halt = s.halt := rfl
@[simp] theorem State.setKeys_fault (s : State) (w : Word) : (s.setKeys w).fault = s.fault := rfl
@[simp] theorem State.setKeys_draws (s : State) (w : Word) : (s.setKeys w).draws = s.draws := rfl
@[simp] theorem State.setKeys_reg (s : State) (w : Word) (k : Reg) : (s.setKeys w).reg k = s.reg k := rfl
@[simp] theorem State.setKeys_slot (s : State) (w : Word) (k : Fin 16) : (s.setKeys w).slot k = s.slot k := rfl
@[simp] theorem State.setKeys_pixel (s : State) (w : Word) (y : Fin 32) (c : Fin 64) : (s.setKeys w).pixel y c = s.pixel y c := rfl

/-! `setDt` -/

@[simp] theorem State.setDt_v (s : State) (b : Byte) : (s.setDt b).v = s.v := rfl
@[simp] theorem State.setDt_i (s : State) (b : Byte) : (s.setDt b).i = s.i := rfl
@[simp] theorem State.setDt_pc (s : State) (b : Byte) : (s.setDt b).pc = s.pc := rfl
@[simp] theorem State.setDt_sp (s : State) (b : Byte) : (s.setDt b).sp = s.sp := rfl
@[simp] theorem State.setDt_stack (s : State) (b : Byte) : (s.setDt b).stack = s.stack := rfl
@[simp] theorem State.setDt_mem (s : State) (b : Byte) : (s.setDt b).mem = s.mem := rfl
@[simp] theorem State.setDt_fb (s : State) (b : Byte) : (s.setDt b).fb = s.fb := rfl
@[simp] theorem State.setDt_dirty (s : State) (b : Byte) : (s.setDt b).dirty = s.dirty := rfl
@[simp] theorem State.setDt_keys (s : State) (b : Byte) : (s.setDt b).keys = s.keys := rfl
@[simp] theorem State.setDt_dt (s : State) (b : Byte) : (s.setDt b).dt = b := rfl
@[simp] theorem State.setDt_st (s : State) (b : Byte) : (s.setDt b).st = s.st := rfl
@[simp] theorem State.setDt_halt (s : State) (b : Byte) : (s.setDt b).halt = s.halt := rfl
@[simp] theorem State.setDt_fault (s : State) (b : Byte) : (s.setDt b).fault = s.fault := rfl
@[simp] theorem State.setDt_draws (s : State) (b : Byte) : (s.setDt b).draws = s.draws := rfl
@[simp] theorem State.setDt_reg (s : State) (b : Byte) (k : Reg) : (s.setDt b).reg k = s.reg k := rfl
@[simp] theorem State.setDt_slot (s : State) (b : Byte) (k : Fin 16) : (s.setDt b).slot k = s.slot k := rfl
@[simp] theorem State.setDt_pixel (s : State) (b : Byte) (y : Fin 32) (c : Fin 64) : (s.setDt b).pixel y c = s.pixel y c := rfl

/-! `setSt` -/

@[simp] theorem State.setSt_v (s : State) (b : Byte) : (s.setSt b).v = s.v := rfl
@[simp] theorem State.setSt_i (s : State) (b : Byte) : (s.setSt b).i = s.i := rfl
@[simp] theorem State.setSt_pc (s : State) (b : Byte) : (s.setSt b).pc = s.pc := rfl
@[simp] theorem State.setSt_sp (s : State) (b : Byte) : (s.setSt b).sp = s.sp := rfl
@[simp] theorem State.setSt_stack (s : State) (b : Byte) : (s.setSt b).stack = s.stack := rfl
@[simp] theorem State.setSt_mem (s : State) (b : Byte) : (s.setSt b).mem = s.mem := rfl
@[simp] theorem State.setSt_fb (s : State) (b : Byte) : (s.setSt b).fb = s.fb := rfl
@[simp] theorem State.setSt_dirty (s : State) (b : Byte) : (s.setSt b).dirty = s.dirty := rfl
@[simp] theorem State.setSt_keys (s : State) (b : Byte) : (s.setSt b).keys = s.keys := rfl
@[simp] theorem State.setSt_dt (s : State) (b : Byte) : (s.setSt b).dt = s.dt := rfl
@[simp] theorem State.setSt_st (s : State) (b : Byte) : (s.setSt b).st = b := rfl
@[simp] theorem State.setSt_halt (s : State) (b : Byte) : (s.setSt b).halt = s.halt := rfl
@[simp] theorem State.setSt_fault (s : State) (b : Byte) : (s.setSt b).fault = s.fault := rfl
@[simp] theorem State.setSt_draws (s : State) (b : Byte) : (s.setSt b).draws = s.draws := rfl
@[simp] theorem State.setSt_reg (s : State) (b : Byte) (k : Reg) : (s.setSt b).reg k = s.reg k := rfl
@[simp] theorem State.setSt_slot (s : State) (b : Byte) (k : Fin 16) : (s.setSt b).slot k = s.slot k := rfl
@[simp] theorem State.setSt_pixel (s : State) (b : Byte) (y : Fin 32) (c : Fin 64) : (s.setSt b).pixel y c = s.pixel y c := rfl

/-! `countDraw` -/

@[simp] theorem State.countDraw_v (s : State) : s.countDraw.v = s.v := rfl
@[simp] theorem State.countDraw_i (s : State) : s.countDraw.i = s.i := rfl
@[simp] theorem State.countDraw_pc (s : State) : s.countDraw.pc = s.pc := rfl
@[simp] theorem State.countDraw_sp (s : State) : s.countDraw.sp = s.sp := rfl
@[simp] theorem State.countDraw_stack (s : State) : s.countDraw.stack = s.stack := rfl
@[simp] theorem State.countDraw_mem (s : State) : s.countDraw.mem = s.mem := rfl
@[simp] theorem State.countDraw_fb (s : State) : s.countDraw.fb = s.fb := rfl
@[simp] theorem State.countDraw_dirty (s : State) : s.countDraw.dirty = s.dirty := rfl
@[simp] theorem State.countDraw_keys (s : State) : s.countDraw.keys = s.keys := rfl
@[simp] theorem State.countDraw_dt (s : State) : s.countDraw.dt = s.dt := rfl
@[simp] theorem State.countDraw_st (s : State) : s.countDraw.st = s.st := rfl
@[simp] theorem State.countDraw_halt (s : State) : s.countDraw.halt = s.halt := rfl
@[simp] theorem State.countDraw_fault (s : State) : s.countDraw.fault = s.fault := rfl
@[simp] theorem State.countDraw_draws (s : State) : s.countDraw.draws = s.draws + 1 := rfl
@[simp] theorem State.countDraw_reg (s : State) (k : Reg) : s.countDraw.reg k = s.reg k := rfl
@[simp] theorem State.countDraw_slot (s : State) (k : Fin 16) : s.countDraw.slot k = s.slot k := rfl
@[simp] theorem State.countDraw_pixel (s : State) (y : Fin 32) (c : Fin 64) : s.countDraw.pixel y c = s.pixel y c := rfl

/-! `raise` -/

@[simp] theorem State.raise_v (s : State) (kind : FaultKind) (op : Option Word) : (s.raise kind op).v = s.v := rfl
@[simp] theorem State.raise_i (s : State) (kind : FaultKind) (op : Option Word) : (s.raise kind op).i = s.i := rfl
@[simp] theorem State.raise_pc (s : State) (kind : FaultKind) (op : Option Word) : (s.raise kind op).pc = s.pc := rfl
@[simp] theorem State.raise_sp (s : State) (kind : FaultKind) (op : Option Word) : (s.raise kind op).sp = s.sp := rfl
@[simp] theorem State.raise_stack (s : State) (kind : FaultKind) (op : Option Word) : (s.raise kind op).stack = s.stack := rfl
@[simp] theorem State.raise_mem (s : State) (kind : FaultKind) (op : Option Word) : (s.raise kind op).mem = s.mem := rfl
@[simp] theorem State.raise_fb (s : State) (kind : FaultKind) (op : Option Word) : (s.raise kind op).fb = s.fb := rfl
@[simp] theorem State.raise_dirty (s : State) (kind : FaultKind) (op : Option Word) : (s.raise kind op).dirty = s.dirty := rfl
@[simp] theorem State.raise_keys (s : State) (kind : FaultKind) (op : Option Word) : (s.raise kind op).keys = s.keys := rfl
@[simp] theorem State.raise_dt (s : State) (kind : FaultKind) (op : Option Word) : (s.raise kind op).dt = s.dt := rfl
@[simp] theorem State.raise_st (s : State) (kind : FaultKind) (op : Option Word) : (s.raise kind op).st = s.st := rfl
@[simp] theorem State.raise_halt (s : State) (kind : FaultKind) (op : Option Word) : (s.raise kind op).halt = true := rfl
@[simp] theorem State.raise_fault (s : State) (kind : FaultKind) (op : Option Word) : (s.raise kind op).fault = ⟨kind, s.pc, op⟩ := rfl
@[simp] theorem State.raise_draws (s : State) (kind : FaultKind) (op : Option Word) : (s.raise kind op).draws = s.draws := rfl
@[simp] theorem State.raise_reg (s : State) (kind : FaultKind) (op : Option Word) (k : Reg) : (s.raise kind op).reg k = s.reg k := rfl
@[simp] theorem State.raise_slot (s : State) (kind : FaultKind) (op : Option Word) (k : Fin 16) : (s.raise kind op).slot k = s.slot k := rfl
@[simp] theorem State.raise_pixel (s : State) (kind : FaultKind) (op : Option Word) (y : Fin 32) (c : Fin 64) : (s.raise kind op).pixel y c = s.pixel y c := rfl

/-! Reads after the write they read -/

@[simp] theorem State.setReg_reg (s : State) (x k : Reg) (b : Byte) :
    (s.setReg x b).reg k = if k = x then b else s.reg k := by
  simp [State.reg, Vector.getElem_set, Fin.ext_iff, eq_comm]

@[simp] theorem State.setRegs_reg (s : State) (w : Vector Byte 16) (k : Reg) :
    (s.setRegs w).reg k = w[k.val]'k.isLt := rfl

@[simp] theorem State.setSlot_slot (s : State) (j k : Fin 16) (w : Word) :
    (s.setSlot j w).slot k = if k = j then w else s.slot k := by
  simp [State.slot, Vector.getElem_set, Fin.ext_iff, eq_comm]

@[simp] theorem State.setFb_pixel (s : State) (f : Screen) (y : Fin 32) (c : Fin 64) :
    (s.setFb f).pixel y c = Screen.pixel f y c := rfl

end Sys2Proof.Machine
end

