-- ==== Sys2Proof/Laws/Ops.lean ====
section
/-! SUPPORT. What each shared operation can do, once: the fetch, the step, the range check, the stack, entering a fault, and the
frame of each update. -/

namespace Sys2Proof.Machine

/-! ### Fetch and range -/

theorem Memory.fetch16_of_le (m : Memory) {a : Nat} (h : a + 1 ≤ 0xFFF) :
    m.fetch16 a = some (wordOfBytes (m.read a) (m.read (a + 1))) := by
  simp [Memory.fetch16, show ¬ 0xFFF < a + 1 by omega]

theorem Memory.fetch16_of_gt (m : Memory) {a : Nat} (h : a + 1 > 0xFFF) : m.fetch16 a = none := by
  simp [Memory.fetch16, h]

/-- What a step of a running machine can answer with: the fetch fault, the decode fault, or what its instruction answers with
(R100, R207). -/
theorem step_cases {s t : State} (hrun : s.halt = false) (h : step s = .next t) :
    (s.pc.toNat + 1 > 0xFFF ∧ t = s.raise .outOfBoundsAccess none) ∨
    (s.pc.toNat + 1 ≤ 0xFFF ∧ ∃ w, w = wordOfBytes (s.mem.read s.pc.toNat) (s.mem.read (s.pc.toNat + 1)) ∧
      ((decode w = .error (.unmatchedPattern w) ∧ t = s.raise .unimplementedOpcode (some w)) ∨
        ∃ i, decode w = .ok i ∧ exec i s = .next t)) := by
  by_cases hp : s.pc.toNat + 1 > 0xFFF
  · simp only [step, hrun, Bool.false_eq_true, if_false, s.mem.fetch16_of_gt hp] at h
    cases h; exact .inl ⟨hp, rfl⟩
  · have hp : s.pc.toNat + 1 ≤ 0xFFF := by omega
    simp only [step, hrun, Bool.false_eq_true, if_false, s.mem.fetch16_of_le hp] at h
    refine .inr ⟨hp, _, rfl, ?_⟩
    split at h <;> rename_i hd
    · cases h; exact .inl ⟨decode_error hd ▸ hd, rfl⟩
    · exact .inr ⟨_, hd, h⟩

/-- A halted machine's step changes nothing (R210). -/
theorem step_of_halt {s : State} (h : s.halt = true) : step s = .next s := by simp only [step, h, if_true]

theorem rangeOutOfBounds_iff (base count : Nat) :
    rangeOutOfBounds base count = true ↔ 0 < count ∧ base + count - 1 > 0xFFF := by
  simp [rangeOutOfBounds]

/-- `withRange` completes in `done` or faults before anything else (R53). -/
theorem withRange_cases {i : Instr} {count : Nat} {s done t : State}
    (h : withRange i count s done = .next t) :
    (rangeOutOfBounds s.i.toNat count = false ∧ t = done) ∨
    (rangeOutOfBounds s.i.toNat count = true ∧ t = s.raise .outOfBoundsAccess (some (encode i))) := by
  unfold withRange at h
  split at h
  · rename_i hr; cases h; exact .inr ⟨hr, rfl⟩
  · rename_i hr; cases h; exact .inl ⟨by simpa using hr, rfl⟩

theorem withRange_of_in {i : Instr} {count : Nat} {s done : State}
    (h : ¬ (0 < count ∧ s.i.toNat + count - 1 > 0xFFF)) : withRange i count s done = .next done := by
  simp only [withRange, rangeOutOfBounds, decide_eq_true_eq, if_neg h]

/-- A data range that leaves `MEM` faults, whatever the instruction would have done (R53). -/
theorem withRange_of_out {i : Instr} {count : Nat} {s done : State}
    (h : 0 < count ∧ s.i.toNat + count - 1 > 0xFFF) : withRange i count s done = faultOn .outOfBoundsAccess i s := by
  simp only [withRange, rangeOutOfBounds, decide_eq_true_eq, if_pos h]

/-! ### The stack -/

/-- What a push can answer (R104): the push, the overflow fault, or the stop at no depth (log 8). -/
theorem pushAndJump_cases {i : Instr} {ret target : Word} {s t : State}
    (h : pushAndJump i ret target s = .next t) :
    (s.sp.toNat = 16 ∧ t = s.raise .stackOverflow (some (encode i))) ∨
    (∃ hlt : s.sp.toNat < 16, t = ((s.setSlot ⟨s.sp.toNat, hlt⟩ ret).setSp (s.sp + 1#5)).setPc target) := by
  unfold pushAndJump at h
  split at h
  · rename_i hs; cases h; exact .inl ⟨by rw [hs]; rfl, rfl⟩
  · split at h
    · rename_i hlt; cases h; exact .inr ⟨hlt, rfl⟩
    · cases h

/-- What a pop can answer (R102): the pop, the underflow fault, or the stop at no depth (log 8). -/
theorem popAndJump_cases {i : Instr} {s t : State} (h : popAndJump i s = .next t) :
    (s.sp.toNat = 0 ∧ t = s.raise .stackUnderflow (some (encode i))) ∨
    (∃ hlt : (s.sp - 1#5).toNat < 16, s.sp ≠ 0#5 ∧
      t = (s.setSp (s.sp - 1#5)).setPc (s.slot ⟨(s.sp - 1#5).toNat, hlt⟩)) := by
  unfold popAndJump at h
  split at h
  · rename_i hs; cases h; exact .inl ⟨by rw [hs]; rfl, rfl⟩
  · rename_i hne
    split at h
    · rename_i hlt; cases h; exact .inr ⟨hlt, hne, rfl⟩
    · cases h

theorem sp_pred_toNat {d : BitVec 5} (h : d ≠ 0#5) : (d - 1#5).toNat = d.toNat - 1 := by
  have h0 : d.toNat ≠ 0 := fun hd => h (BitVec.eq_of_toNat_eq hd)
  have hd := d.isLt
  rw [BitVec.toNat_sub]
  simp only [BitVec.toNat_ofNat]
  omega

theorem sp_succ_toNat {d : BitVec 5} (h : d.toNat < 16) : (d + 1#5).toNat = d.toNat + 1 := by
  rw [BitVec.toNat_add]
  simp only [BitVec.toNat_ofNat]
  omega

/-- The push below depth 16 (R104). -/
theorem pushAndJump_of_lt {i : Instr} {ret target : Word} {s : State} (h : s.sp.toNat < 16) :
    pushAndJump i ret target s =
      .next (((s.setSlot ⟨s.sp.toNat, h⟩ ret).setSp (s.sp + 1#5)).setPc target) := by
  have hne : s.sp ≠ 16#5 := fun h16 => by rw [h16] at h; exact absurd h (by decide)
  unfold pushAndJump
  rw [if_neg hne]
  exact dif_pos h

/-- The pop at a depth of 1 to 16 (R102). -/
theorem popAndJump_of_pos {i : Instr} {s : State} (h0 : s.sp ≠ 0#5) (h : (s.sp - 1#5).toNat < 16) :
    popAndJump i s = .next ((s.setSp (s.sp - 1#5)).setPc (s.slot ⟨(s.sp - 1#5).toNat, h⟩)) := by
  unfold popAndJump
  rw [if_neg h0]
  exact dif_pos h

/-- The push on a full stack (R104). -/
theorem pushAndJump_of_full {i : Instr} {ret target : Word} {s : State} (h : s.sp = 16#5) :
    pushAndJump i ret target s = faultOn .stackOverflow i s := by
  unfold pushAndJump
  exact if_pos h

/-- The pop on an empty stack (R102). -/
theorem popAndJump_of_empty {i : Instr} {s : State} (h : s.sp = 0#5) :
    popAndJump i s = faultOn .stackUnderflow i s := by
  unfold popAndJump
  exact if_pos h

/-- Above depth 16 there is no push (log 8). -/
theorem pushAndJump_of_gt {i : Instr} {ret target : Word} {s : State} (h : 16 < s.sp.toNat) :
    pushAndJump i ret target s = .fault .stackDepthAboveSixteen := by
  have hne : s.sp ≠ 16#5 := fun h16 => by rw [h16] at h; exact absurd h (by decide)
  unfold pushAndJump
  rw [if_neg hne]
  exact dif_neg (by unfold Config.stackDepth; omega)

/-- Above depth 16 there is no pop (log 8). -/
theorem popAndJump_of_gt {i : Instr} {s : State} (h : 16 < s.sp.toNat) :
    popAndJump i s = .fault .stackDepthAboveSixteen := by
  have hne : s.sp ≠ 0#5 := fun h0 => by rw [h0] at h; exact absurd h (by decide)
  unfold popAndJump
  rw [if_neg hne]
  exact dif_neg (by rw [sp_pred_toNat hne]; unfold Config.stackDepth; omega)

/-! ### Keys -/

/-- The lowest key is none exactly when no key is pressed (R183). -/
theorem lowestKey_eq_none (keys : Word) : lowestKey keys = none ↔ keys = 0#16 := by
  simp only [lowestKey, pressed, List.find?_eq_none, List.mem_range, Bool.not_eq_true]
  constructor
  · intro h
    refine BitVec.eq_of_getLsbD_eq fun j hj => ?_
    simpa using h j hj
  · rintro rfl j _
    simp

/-- The lowest key is pressed and no lower key is (R183). -/
theorem lowestKey_eq_some {keys : Word} {k : Nat} (h : lowestKey keys = some k) :
    k < 16 ∧ keys.getLsbD k = true ∧ ∀ j < k, keys.getLsbD j = false := by
  obtain ⟨hk, as, bs, hsplit, hall⟩ := List.find?_eq_some_iff_append.mp h
  have hlen : k < 16 := by
    have : k ∈ List.range 16 := by rw [hsplit]; simp
    simpa using this
  refine ⟨hlen, hk, fun j hj => ?_⟩
  have hsorted : (List.range 16).Pairwise (· < ·) := List.pairwise_lt_range
  have hmem : j ∈ List.range 16 := by simp; omega
  rw [hsplit] at hmem hsorted
  rcases List.mem_append.mp hmem with hj' | hj'
  · simpa [pressed] using hall j hj'
  · rw [List.pairwise_append] at hsorted
    rcases List.mem_cons.mp hj' with rfl | hj''
    · omega
    · have := (List.pairwise_cons.mp hsorted.2.1).1 j hj''
      omega

/-! ### Frames -/

theorem Unchanged.refl (may : Part → Prop) (s : State) : Unchanged may s s := by
  intro p _; cases p <;> rfl

theorem Unchanged.trans {may : Part → Prop} {s t u : State} (h : Unchanged may s t) (h' : Unchanged may t u) :
    Unchanged may s u := by
  intro p hp
  have a := h p hp
  have b := h' p hp
  cases p <;> simp only [Part.Same] at a b ⊢ <;> rw [b, a]

theorem Unchanged.mono {may may' : Part → Prop} {s t : State} (h : Unchanged may s t)
    (hm : ∀ p, may p → may' p) : Unchanged may' s t :=
  fun p hp => h p fun hp' => hp (hm p hp')

theorem unchanged_setReg (s : State) (x : Reg) (b : Byte) : Unchanged (· = .reg x) s (s.setReg x b) := by
  intro p hp
  cases p with
  | reg k => simp only [Part.Same, State.setReg_reg]; rw [if_neg]; rintro rfl; exact hp rfl
  | _ => rfl

theorem unchanged_setI (s : State) (w : Word) : Unchanged (· = .index) s (s.setI w) := by
  intro p hp; cases p <;> first | exact absurd rfl hp | rfl

theorem unchanged_setPc (s : State) (w : Word) : Unchanged (· = .pc) s (s.setPc w) := by
  intro p hp; cases p <;> first | exact absurd rfl hp | rfl

theorem unchanged_advance (s : State) : Unchanged (· = .pc) s s.advance := unchanged_setPc s _

theorem unchanged_skipIf (s : State) (c : Bool) : Unchanged (· = .pc) s (s.skipIf c) := unchanged_setPc s _

theorem unchanged_setSp (s : State) (d : BitVec 5) : Unchanged (· = .depth) s (s.setSp d) := by
  intro p hp; cases p <;> first | exact absurd rfl hp | rfl

theorem unchanged_setSlot (s : State) (j : Fin 16) (w : Word) : Unchanged (· = .slot j) s (s.setSlot j w) := by
  intro p hp
  cases p with
  | slot k => simp only [Part.Same, State.setSlot_slot]; rw [if_neg]; rintro rfl; exact hp rfl
  | _ => rfl

theorem unchanged_setDirty (s : State) (d : Bool) : Unchanged (· = .dirty) s (s.setDirty d) := by
  intro p hp; cases p <;> first | exact absurd rfl hp | rfl

theorem unchanged_setKeys (s : State) (w : Word) : Unchanged (· = .keys) s (s.setKeys w) := by
  intro p hp; cases p <;> first | exact absurd rfl hp | rfl

theorem unchanged_setDt (s : State) (b : Byte) : Unchanged (· = .delay) s (s.setDt b) := by
  intro p hp; cases p <;> first | exact absurd rfl hp | rfl

theorem unchanged_setSt (s : State) (b : Byte) : Unchanged (· = .sound) s (s.setSt b) := by
  intro p hp; cases p <;> first | exact absurd rfl hp | rfl

theorem unchanged_countDraw (s : State) : Unchanged (· = .draws) s s.countDraw := by
  intro p hp; cases p <;> first | exact absurd rfl hp | rfl

theorem unchanged_setFb (s : State) (f : Screen) : Unchanged (fun p => ∃ y x, p = .pixel y x) s (s.setFb f) := by
  intro p hp
  cases p with
  | pixel y x => exact absurd ⟨y, x, rfl⟩ hp
  | _ => rfl

/-- A new memory changes at most the bytes that read otherwise. -/
theorem unchanged_setMem (s : State) (m : Memory) :
    Unchanged (fun p => ∃ a, m.read a ≠ s.mem.read a ∧ p = .byte a) s (s.setMem m) := by
  intro p hp
  cases p with
  | byte a => exact Classical.not_not.mp fun h => hp ⟨a, h, rfl⟩
  | _ => rfl

/-- New registers change at most those that read otherwise. -/
theorem unchanged_setRegs (s : State) (w : Vector Byte 16) :
    Unchanged (fun p => ∃ k : Reg, w[k.val]'k.isLt ≠ s.reg k ∧ p = .reg k) s (s.setRegs w) := by
  intro p hp
  cases p with
  | reg k => exact Classical.not_not.mp fun h => hp ⟨k, h, rfl⟩
  | _ => rfl

/-- Entering a fault writes `HALT` and `FAULT` and nothing else (R208). -/
theorem unchanged_raise (s : State) (kind : FaultKind) (op : Option Word) :
    Unchanged (fun p => p = .halt ∨ p = .fault) s (s.raise kind op) := by
  intro p hp
  cases p with
  | halt => exact absurd (.inl rfl) hp
  | fault => exact absurd (.inr rfl) hp
  | _ => rfl

/-- The outcome of a faulting instruction is the fault, and nothing but it (R208). -/
theorem faultsWith_faultOn (kind : FaultKind) (i : Instr) (s : State) :
    FaultsWith kind i s (faultOn kind i s) :=
  ⟨_, rfl, rfl, rfl, unchanged_raise _ _ _⟩

end Sys2Proof.Machine
end

