-- ==== Sys2Proof/Laws/PerInstr.lean ====
section
/-! SUPPORT. Statements about every instruction as syntax, one lemma per constructor. -/

/-! ### OwnRow: an instruction's word is accepted by its own row of the opcode list (spec/30_encoding.md R74, R75) -/

namespace Sys2Proof.Laws.OwnRow

/-- The word of `i` matches the mask and the match value of `i`'s row. -/
def Statement (i : Instr) : Prop := i.row.accepts (encode i) = true

theorem accepts_packNNN (name : String) (m : BitVec 4) (nnn : Addr12) :
    OpcodeRow.accepts ⟨name, 0xF000#16, packNNN m 0#12⟩ (packNNN m nnn) = true := by
  simp [OpcodeRow.accepts, mask_F000]

theorem accepts_packXNN (name : String) (m : BitVec 4) (x : Reg) (nn : Byte) :
    OpcodeRow.accepts ⟨name, 0xF000#16, packNNN m 0#12⟩ (packXNN m x nn) = true := by
  simp [OpcodeRow.accepts, mask_F000]

theorem accepts_packXYN (name : String) (m : BitVec 4) (x y : Reg) (n : BitVec 4) :
    OpcodeRow.accepts ⟨name, 0xF000#16, packNNN m 0#12⟩ (packXYN m x y n) = true := by
  simp [OpcodeRow.accepts, mask_F000]

theorem accepts_packXY (name : String) (m : BitVec 4) (x y : Reg) (n : BitVec 4) :
    OpcodeRow.accepts ⟨name, 0xF00F#16, packXYN m 0 0 n⟩ (packXYN m x y n) = true := by
  simp [OpcodeRow.accepts, mask_F00F]

theorem accepts_packX (name : String) (m : BitVec 4) (x : Reg) (nn : Byte) :
    OpcodeRow.accepts ⟨name, 0xF0FF#16, packXNN m 0 nn⟩ (packXNN m x nn) = true := by
  simp [OpcodeRow.accepts, mask_F0FF]

theorem cls : Statement .cls := rfl
theorem ret : Statement .ret := rfl
theorem jp (nnn : Addr12) : Statement (.jp nnn) := accepts_packNNN _ _ _
theorem call (nnn : Addr12) : Statement (.call nnn) := accepts_packNNN _ _ _
theorem seImm (x : Reg) (nn : Byte) : Statement (.seImm x nn) := accepts_packXNN _ _ _ _
theorem sneImm (x : Reg) (nn : Byte) : Statement (.sneImm x nn) := accepts_packXNN _ _ _ _
theorem seReg (x y : Reg) : Statement (.seReg x y) := accepts_packXY _ _ _ _ _
theorem ldImm (x : Reg) (nn : Byte) : Statement (.ldImm x nn) := accepts_packXNN _ _ _ _
theorem addImm (x : Reg) (nn : Byte) : Statement (.addImm x nn) := accepts_packXNN _ _ _ _
theorem ldReg (x y : Reg) : Statement (.ldReg x y) := accepts_packXY _ _ _ _ _
theorem orReg (x y : Reg) : Statement (.orReg x y) := accepts_packXY _ _ _ _ _
theorem andReg (x y : Reg) : Statement (.andReg x y) := accepts_packXY _ _ _ _ _
theorem xorReg (x y : Reg) : Statement (.xorReg x y) := accepts_packXY _ _ _ _ _
theorem addReg (x y : Reg) : Statement (.addReg x y) := accepts_packXY _ _ _ _ _
theorem subReg (x y : Reg) : Statement (.subReg x y) := accepts_packXY _ _ _ _ _
theorem shrReg (x y : Reg) : Statement (.shrReg x y) := accepts_packXY _ _ _ _ _
theorem subnReg (x y : Reg) : Statement (.subnReg x y) := accepts_packXY _ _ _ _ _
theorem shlReg (x y : Reg) : Statement (.shlReg x y) := accepts_packXY _ _ _ _ _
theorem sneReg (x y : Reg) : Statement (.sneReg x y) := accepts_packXY _ _ _ _ _
theorem ldI (nnn : Addr12) : Statement (.ldI nnn) := accepts_packNNN _ _ _
theorem jpV0 (nnn : Addr12) : Statement (.jpV0 nnn) := accepts_packNNN _ _ _
theorem rnd (x : Reg) (nn : Byte) : Statement (.rnd x nn) := accepts_packXNN _ _ _ _
theorem drw (x y : Reg) (n : BitVec 4) : Statement (.drw x y n) := accepts_packXYN _ _ _ _ _
theorem skp (x : Reg) : Statement (.skp x) := accepts_packX _ _ _ _
theorem sknp (x : Reg) : Statement (.sknp x) := accepts_packX _ _ _ _
theorem ldVxDt (x : Reg) : Statement (.ldVxDt x) := accepts_packX _ _ _ _
theorem ldDtVx (x : Reg) : Statement (.ldDtVx x) := accepts_packX _ _ _ _
theorem ldStVx (x : Reg) : Statement (.ldStVx x) := accepts_packX _ _ _ _
theorem addI (x : Reg) : Statement (.addI x) := accepts_packX _ _ _ _
theorem ldVxK (x : Reg) : Statement (.ldVxK x) := accepts_packX _ _ _ _
theorem ldF (x : Reg) : Statement (.ldF x) := accepts_packX _ _ _ _
theorem ldB (x : Reg) : Statement (.ldB x) := accepts_packX _ _ _ _
theorem storeRegs (x : Reg) : Statement (.storeRegs x) := accepts_packX _ _ _ _
theorem loadRegs (x : Reg) : Statement (.loadRegs x) := accepts_packX _ _ _ _

end Sys2Proof.Laws.OwnRow

/-! ### WellFormed: every term of `Instr` is well formed (spec/30_encoding.md R73: no reserved register number) -/

namespace Sys2Proof.Laws.WellFormed

/-- Every operand of `i` fits its field. -/
def Statement (i : Instr) : Prop := i.wellFormed = true

theorem fits_reg (x : Reg) : fieldFits x.val 4 = true := by simp [fieldFits]

theorem fits_bits {w : Nat} (b : BitVec w) : fieldFits b.toNat w = true := by simp [fieldFits, b.isLt]

theorem cls : Statement .cls := by simp [Statement, Instr.wellFormed, Instr.fields]
theorem ret : Statement .ret := by simp [Statement, Instr.wellFormed, Instr.fields]
theorem jp (nnn : Addr12) : Statement (.jp nnn) := by simp [Statement, Instr.wellFormed, Instr.fields, fits_bits]
theorem call (nnn : Addr12) : Statement (.call nnn) := by simp [Statement, Instr.wellFormed, Instr.fields, fits_bits]
theorem seImm (x : Reg) (nn : Byte) : Statement (.seImm x nn) := by simp [Statement, Instr.wellFormed, Instr.fields, fits_reg, fits_bits]
theorem sneImm (x : Reg) (nn : Byte) : Statement (.sneImm x nn) := by simp [Statement, Instr.wellFormed, Instr.fields, fits_reg, fits_bits]
theorem seReg (x y : Reg) : Statement (.seReg x y) := by simp [Statement, Instr.wellFormed, Instr.fields, fits_reg]
theorem ldImm (x : Reg) (nn : Byte) : Statement (.ldImm x nn) := by simp [Statement, Instr.wellFormed, Instr.fields, fits_reg, fits_bits]
theorem addImm (x : Reg) (nn : Byte) : Statement (.addImm x nn) := by simp [Statement, Instr.wellFormed, Instr.fields, fits_reg, fits_bits]
theorem ldReg (x y : Reg) : Statement (.ldReg x y) := by simp [Statement, Instr.wellFormed, Instr.fields, fits_reg]
theorem orReg (x y : Reg) : Statement (.orReg x y) := by simp [Statement, Instr.wellFormed, Instr.fields, fits_reg]
theorem andReg (x y : Reg) : Statement (.andReg x y) := by simp [Statement, Instr.wellFormed, Instr.fields, fits_reg]
theorem xorReg (x y : Reg) : Statement (.xorReg x y) := by simp [Statement, Instr.wellFormed, Instr.fields, fits_reg]
theorem addReg (x y : Reg) : Statement (.addReg x y) := by simp [Statement, Instr.wellFormed, Instr.fields, fits_reg]
theorem subReg (x y : Reg) : Statement (.subReg x y) := by simp [Statement, Instr.wellFormed, Instr.fields, fits_reg]
theorem shrReg (x y : Reg) : Statement (.shrReg x y) := by simp [Statement, Instr.wellFormed, Instr.fields, fits_reg]
theorem subnReg (x y : Reg) : Statement (.subnReg x y) := by simp [Statement, Instr.wellFormed, Instr.fields, fits_reg]
theorem shlReg (x y : Reg) : Statement (.shlReg x y) := by simp [Statement, Instr.wellFormed, Instr.fields, fits_reg]
theorem sneReg (x y : Reg) : Statement (.sneReg x y) := by simp [Statement, Instr.wellFormed, Instr.fields, fits_reg]
theorem ldI (nnn : Addr12) : Statement (.ldI nnn) := by simp [Statement, Instr.wellFormed, Instr.fields, fits_bits]
theorem jpV0 (nnn : Addr12) : Statement (.jpV0 nnn) := by simp [Statement, Instr.wellFormed, Instr.fields, fits_bits]
theorem rnd (x : Reg) (nn : Byte) : Statement (.rnd x nn) := by simp [Statement, Instr.wellFormed, Instr.fields, fits_reg, fits_bits]
theorem drw (x y : Reg) (n : BitVec 4) : Statement (.drw x y n) := by simp [Statement, Instr.wellFormed, Instr.fields, fits_reg, fits_bits]
theorem skp (x : Reg) : Statement (.skp x) := by simp [Statement, Instr.wellFormed, Instr.fields, fits_reg]
theorem sknp (x : Reg) : Statement (.sknp x) := by simp [Statement, Instr.wellFormed, Instr.fields, fits_reg]
theorem ldVxDt (x : Reg) : Statement (.ldVxDt x) := by simp [Statement, Instr.wellFormed, Instr.fields, fits_reg]
theorem ldDtVx (x : Reg) : Statement (.ldDtVx x) := by simp [Statement, Instr.wellFormed, Instr.fields, fits_reg]
theorem ldStVx (x : Reg) : Statement (.ldStVx x) := by simp [Statement, Instr.wellFormed, Instr.fields, fits_reg]
theorem addI (x : Reg) : Statement (.addI x) := by simp [Statement, Instr.wellFormed, Instr.fields, fits_reg]
theorem ldVxK (x : Reg) : Statement (.ldVxK x) := by simp [Statement, Instr.wellFormed, Instr.fields, fits_reg]
theorem ldF (x : Reg) : Statement (.ldF x) := by simp [Statement, Instr.wellFormed, Instr.fields, fits_reg]
theorem ldB (x : Reg) : Statement (.ldB x) := by simp [Statement, Instr.wellFormed, Instr.fields, fits_reg]
theorem storeRegs (x : Reg) : Statement (.storeRegs x) := by simp [Statement, Instr.wellFormed, Instr.fields, fits_reg]
theorem loadRegs (x : Reg) : Statement (.loadRegs x) := by simp [Statement, Instr.wellFormed, Instr.fields, fits_reg]

end Sys2Proof.Laws.WellFormed
end

