-- ==== Sys2Proof/Tests/Slice0.lean ====
section
/-! SUPPORT. Tests with the expected values of spec/95_test_vectors.md (T1 to T128 there), the smoke test of WellFormed, and
for each statement with hypotheses a concrete state and operands that meet them. -/

namespace Sys2Proof.Tests

open Sys2Proof Sys2Proof.Machine Sys2Proof.Claims

/-- The fresh state with its `PC` at `a`. -/
def at_ (a : Word) : State := State.reset.setPc a

/-- The fresh state with `I` at `a` and these bytes of `MEM` there. -/
def dataAt (a : Word) (bytes : List Byte) : State :=
  (State.reset.setI a).setMem (State.reset.mem.writeBlock a.toNat bytes)

/-- The next state of an outcome. -/
def nextOf : Host.Outcome State Fault Refusal → Option State
  | .next t => some t
  | _ => none

/-- The state after one step with the word `w` at `PC`. -/
def after (s : State) (w : Nat) : Option State := nextOf (step (s.withFetchWord 16 w))

/-- `FAULT` of a halted machine. -/
def faultOf (s : State) : Option FaultRecord := if s.halt then some s.fault else none

/-! ### Well-formedness: each check refuses an ill-formed term -/

theorem test_field_does_not_fit :
    fieldFits 15 4 = true ∧ fieldFits 16 4 = false ∧ fieldFits 256 8 = false ∧ fieldFits 4096 12 = false := by decide

theorem test_instr_wellFormed : (Instr.drw 0xF 0xF 0xF#4).wellFormed = true := by decide

theorem test_words_refused :
    [0x0000#16, 0x0123, 0x00FE, 0x5121, 0x8128, 0x812F, 0x9121, 0xE000, 0xE19F, 0xF000, 0xF175].map wordWellFormed =
      List.replicate 11 false ∧ wordWellFormed 0x8124#16 = true := by decide

theorem test_image_length :
    imageWellFormed (List.replicate 3584 0#8) = true ∧ imageWellFormed (List.replicate 3585 0#8) = false := by
  simp only [imageWellFormed, List.length_replicate]
  decide

/-! ### Decoding: one word per row, written out from R75 -/

theorem test_decode_0 : decode 0b0000000011100000#16 = .ok .cls ∧ decode 0b0000000011101110#16 = .ok .ret := by decide
theorem test_decode_1 : decode 0b0001101010111100#16 = .ok (.jp 0xABC#12) := by decide
theorem test_decode_2 : decode 0b0010101010111100#16 = .ok (.call 0xABC#12) := by decide
theorem test_decode_3 : decode 0b0011101000010010#16 = .ok (.seImm 0xA 0x12#8) := by decide
theorem test_decode_4 : decode 0b0100101000010010#16 = .ok (.sneImm 0xA 0x12#8) := by decide
theorem test_decode_5 : decode 0b0101101010110000#16 = .ok (.seReg 0xA 0xB) := by decide
theorem test_decode_6 : decode 0b0110101000010010#16 = .ok (.ldImm 0xA 0x12#8) := by decide
theorem test_decode_7 : decode 0b0111101000010010#16 = .ok (.addImm 0xA 0x12#8) := by decide
theorem test_decode_8xy0 : decode 0b1000101010110000#16 = .ok (.ldReg 0xA 0xB) := by decide
theorem test_decode_8xy1 : decode 0b1000101010110001#16 = .ok (.orReg 0xA 0xB) := by decide
theorem test_decode_8xy2 : decode 0b1000101010110010#16 = .ok (.andReg 0xA 0xB) := by decide
theorem test_decode_8xy3 : decode 0b1000101010110011#16 = .ok (.xorReg 0xA 0xB) := by decide
theorem test_decode_8xy4 : decode 0b1000101010110100#16 = .ok (.addReg 0xA 0xB) := by decide
theorem test_decode_8xy5 : decode 0b1000101010110101#16 = .ok (.subReg 0xA 0xB) := by decide
theorem test_decode_8xy6 : decode 0b1000101010110110#16 = .ok (.shrReg 0xA 0xB) := by decide
theorem test_decode_8xy7 : decode 0b1000101010110111#16 = .ok (.subnReg 0xA 0xB) := by decide
theorem test_decode_8xyE : decode 0b1000101010111110#16 = .ok (.shlReg 0xA 0xB) := by decide
theorem test_decode_9 : decode 0b1001101010110000#16 = .ok (.sneReg 0xA 0xB) := by decide
theorem test_decode_A : decode 0b1010101010111100#16 = .ok (.ldI 0xABC#12) := by decide
theorem test_decode_B : decode 0b1011101010111100#16 = .ok (.jpV0 0xABC#12) := by decide
theorem test_decode_C : decode 0b1100101000010010#16 = .ok (.rnd 0xA 0x12#8) := by decide
theorem test_decode_D : decode 0b1101101010110101#16 = .ok (.drw 0xA 0xB 0x5#4) := by decide
theorem test_decode_E :
    decode 0b1110101010011110#16 = .ok (.skp 0xA) ∧ decode 0b1110101010100001#16 = .ok (.sknp 0xA) := by decide
theorem test_decode_F_timers :
    decode 0b1111101000000111#16 = .ok (.ldVxDt 0xA) ∧ decode 0b1111101000010101#16 = .ok (.ldDtVx 0xA) ∧
    decode 0b1111101000011000#16 = .ok (.ldStVx 0xA) := by decide
theorem test_decode_F_index :
    decode 0b1111101000011110#16 = .ok (.addI 0xA) ∧ decode 0b1111101000001010#16 = .ok (.ldVxK 0xA) ∧
    decode 0b1111101000101001#16 = .ok (.ldF 0xA) := by decide
theorem test_decode_F_memory :
    decode 0b1111101000110011#16 = .ok (.ldB 0xA) ∧ decode 0b1111101001010101#16 = .ok (.storeRegs 0xA) ∧
    decode 0b1111101001100101#16 = .ok (.loadRegs 0xA) := by decide

/-- One illegal word per class of R76, refused by name. -/
theorem test_illegal_words : [0x0000#16, 0x0123, 0x00FE, 0x5121, 0x8128, 0x812F, 0x9121, 0xE000, 0xF000].map decode =
    [0x0000#16, 0x0123, 0x00FE, 0x5121, 0x8128, 0x812F, 0x9121, 0xE000, 0xF000].map fun w => .error (.unmatchedPattern w) := by
  decide

/-- The field check on 0xDAB5 that closes the spec's decode vectors. -/
theorem test_fields : fieldX 0xDAB5#16 = 0xA ∧ fieldY 0xDAB5#16 = 0xB ∧ fieldN 0xDAB5#16 = 5#4 ∧
    fieldNN 0xDAB5#16 = 0xB5#8 ∧ fieldNNN 0xDAB5#16 = 0xAB5#12 := by decide

theorem test_table_word : decodeTableWord 16 0xDAB5 = some (.drw 0xA 0xB 5#4) ∧ decodeTableWord 16 0x5121 = none := by
  decide

/-! ### The step -/

/-- T1, T4, T13: an illegal word faults with its record; the halted machine stays. -/
theorem test_illegal_word_faults :
    (after State.reset 0x0000).bind faultOf = some ⟨.unimplementedOpcode, 0x200#16, some 0x0000#16⟩ ∧
    (after State.reset 0x5121).bind faultOf = some ⟨.unimplementedOpcode, 0x200#16, some 0x5121#16⟩ := by decide

/-- T10, T11: the fetch bound. -/
theorem test_fetch_bound :
    (nextOf (step (at_ 0xFFF#16))).bind faultOf = some ⟨.outOfBoundsAccess, 0xFFF#16, none⟩ ∧
    (after (at_ 0xFFE#16) 0x6005).map (fun t => (t.reg 0, t.pc, t.halt)) = some (0x05#8, 0x1000#16, false) := by
  decide

/-- T12: an odd `PC` fetches as an even one. -/
theorem test_odd_pc : (after (at_ 0x203#16) 0x612A).map (fun t => (t.reg 1, t.pc)) = some (0x2A#8, 0x205#16) := by
  decide

/-! ### Control transfer -/

theorem test_jp : (after (at_ 0x20A#16) 0x1204).map (·.pc) = some 0x204#16 := by decide
theorem test_call : (after (at_ 0x204#16) 0x2208).map (fun t => (t.slot 0, t.sp, t.pc)) = some (0x206#16, 1#5, 0x208#16) := by
  decide
theorem test_call_overflow : (after (State.reset.setSp 16#5) 0x2200).map (fun t => (faultOf t, t.sp, t.pc)) =
    some (some ⟨.stackOverflow, 0x200#16, some 0x2200#16⟩, 16#5, 0x200#16) := by decide
theorem test_ret : (after (((at_ 0x20C#16).setSlot 0 0x206#16).setSp 1#5) 0x00EE).map (fun t => (t.sp, t.pc, t.slot 0)) =
    some (0#5, 0x206#16, 0x206#16) := by decide
theorem test_ret_underflow : (after State.reset 0x00EE).map (fun t => (faultOf t, t.sp, t.pc)) =
    some (some ⟨.stackUnderflow, 0x200#16, some 0x00EE#16⟩, 0#5, 0x200#16) := by decide
theorem test_jpV0 : (after (State.reset.setReg 0 0xFF#8) 0xBFFF).map (fun t => (t.pc, t.halt)) = some (0x10FE#16, false) := by
  decide
theorem test_seImm : (after (at_ 0x208#16) 0x3100).map (·.pc) = some 0x20C#16 ∧
    (after ((at_ 0x208#16).setReg 1 0x01#8) 0x3100).map (·.pc) = some 0x20A#16 := by decide
theorem test_sneImm : (after ((at_ 0x300#16).setReg 2 0x10#8) 0x4211).map (·.pc) = some 0x304#16 ∧
    (after ((at_ 0x300#16).setReg 2 0x10#8) 0x4210).map (·.pc) = some 0x302#16 := by decide
theorem test_seReg : (after (State.reset.setReg 3 0xAB#8) 0x5330).map (·.pc) = some 0x204#16 ∧
    (after (State.reset.setReg 3 0xAB#8) 0x5340).map (·.pc) = some 0x202#16 := by decide
theorem test_sneReg : (after ((State.reset.setReg 3 0x01#8).setReg 4 0x02#8) 0x9340).map (·.pc) = some 0x204#16 ∧
    (after (State.reset.setReg 3 0xAB#8) 0x9330).map (·.pc) = some 0x202#16 := by decide

/-! ### Registers -/

theorem test_ldImm : (after State.reset 0x6FAB).map (·.reg 0xF) = some 0xAB#8 := by decide
theorem test_addImm : (after (State.reset.setReg 0xF 0xFF#8) 0x7F01).map (·.reg 0xF) = some 0x00#8 ∧
    (after ((State.reset.setReg 1 0x0A#8).setReg 0xF 0x05#8) 0x71FF).map (fun t => (t.reg 1, t.reg 0xF)) =
      some (0x09#8, 0x05#8) := by decide
theorem test_ldReg : (after (State.reset.setReg 0xF 0x01#8) 0x8EF0).map (·.reg 0xE) = some 0x01#8 := by decide
theorem test_orReg : (after (((State.reset.setReg 1 0xF0#8).setReg 2 0x0F#8).setReg 0xF 0x01#8) 0x8121).map
    (fun t => (t.reg 1, t.reg 0xF)) = some (0xFF#8, 0x01#8) := by decide
theorem test_andReg : (after ((State.reset.setReg 1 0xF3#8).setReg 2 0x3C#8) 0x8122).map (·.reg 1) = some 0x30#8 := by
  decide
theorem test_xorReg : (after ((State.reset.setReg 1 0x5A#8).setReg 0xF 0x01#8) 0x8113).map
    (fun t => (t.reg 1, t.reg 0xF)) = some (0x00#8, 0x01#8) := by decide
theorem test_addReg : (after (State.reset.setReg 1 0x90#8) 0x8114).map (fun t => (t.reg 1, t.reg 0xF)) =
    some (0x20#8, 0x01#8) := by decide
theorem test_addReg_flag : (after ((State.reset.setReg 1 0x20#8).setReg 0xF 0x10#8) 0x8F14).map (·.reg 0xF) = some 0x00#8 ∧
    (after ((State.reset.setReg 1 0x02#8).setReg 0xF 0x01#8) 0x81F4).map (fun t => (t.reg 1, t.reg 0xF)) =
      some (0x03#8, 0x00#8) := by decide
theorem test_subReg : (after ((State.reset.setReg 1 0x07#8).setReg 2 0x07#8) 0x8125).map (fun t => (t.reg 1, t.reg 0xF)) =
    some (0x00#8, 0x01#8) := by decide
theorem test_subReg_borrow : (after (State.reset.setReg 2 0x01#8) 0x8125).map (fun t => (t.reg 1, t.reg 0xF)) =
    some (0xFF#8, 0x00#8) := by decide
theorem test_shrReg : (after ((State.reset.setReg 1 0xAA#8).setReg 2 0x05#8) 0x8126).map
    (fun t => (t.reg 1, t.reg 0xF, t.reg 2)) = some (0x02#8, 0x01#8, 0x05#8) := by decide
theorem test_shrReg_flag : (after (State.reset.setReg 1 0x02#8) 0x8F16).map (·.reg 0xF) = some 0x00#8 := by decide
theorem test_subnReg : (after ((State.reset.setReg 1 0x05#8).setReg 2 0x03#8) 0x8127).map (fun t => (t.reg 1, t.reg 0xF)) =
    some (0xFE#8, 0x00#8) := by decide
theorem test_subnReg_flag : (after ((State.reset.setReg 1 0x05#8).setReg 0xF 0x03#8) 0x8F17).map (·.reg 0xF) =
    some 0x01#8 := by decide
theorem test_shlReg : (after ((State.reset.setReg 1 0x33#8).setReg 2 0x81#8) 0x812E).map
    (fun t => (t.reg 1, t.reg 0xF, t.reg 2)) = some (0x02#8, 0x01#8, 0x81#8) := by decide
theorem test_shlReg_source : (after ((State.reset.setReg 1 0x55#8).setReg 0xF 0x80#8) 0x81FE).map
    (fun t => (t.reg 1, t.reg 0xF)) = some (0x00#8, 0x01#8) := by decide
/-- T65, T67: the draw is given, since nothing is known of the free value. -/
theorem test_rnd : (rndWith 0xA7#8 3 0x0F#8 State.reset).reg 3 = 0x07#8 ∧
    (rndWith 0xFF#8 3 0xFF#8 State.reset).reg 3 = 0xFF#8 ∧ (rndWith 0xA7#8 3 0x0F#8 State.reset).pc = 0x202#16 := by decide
/-- T66: whatever the draw, the mask 0 gives 0. -/
theorem test_rnd_mask_zero (r : Byte) : (rndWith r 3 0x00#8 State.reset).reg 3 = 0x00#8 := by simp [rndWith]

/-! ### Index register and memory -/

theorem test_ldI : (after State.reset 0xAFFF).map (·.i) = some 0x0FFF#16 := by decide
theorem test_addI : (after ((State.reset.setI 0x0FFF#16).setReg 1 0x01#8) 0xF11E).map (fun t => (t.i, t.reg 0xF, t.halt)) =
    some (0x1000#16, 0x00#8, false) ∧
    (after ((State.reset.setI 0xFFFF#16).setReg 1 0x01#8) 0xF11E).map (·.i) = some 0x0000#16 := by decide
theorem test_ldF : (after (State.reset.setReg 0xA 0x07#8) 0xFA29).map (·.i) = some 0x0023#16 ∧
    (after (State.reset.setReg 1 0xFF#8) 0xF129).map (·.i) = some 0x04FB#16 := by decide
theorem test_ldB : (after ((State.reset.setI 0xFFD#16).setReg 1 0xFF#8) 0xF133).map
    (fun t => [t.mem.read 0xFFD, t.mem.read 0xFFE, t.mem.read 0xFFF]) = some [0x02#8, 0x05#8, 0x05#8] := by decide
theorem test_ldB_fault : (after ((State.reset.setI 0xFFE#16).setReg 1 0xFF#8) 0xF133).map
    (fun t => (faultOf t, t.mem.read 0xFFE, t.mem.read 0xFFF)) =
      some (some ⟨.outOfBoundsAccess, 0x200#16, some 0xF133#16⟩, 0x00#8, 0x00#8) := by decide
theorem test_storeRegs : (after (((State.reset.setI 0xFF0#16).setReg 0 0x01#8).setReg 0xF 0xEE#8) 0xFF55).map
    (fun t => (t.mem.read 0xFF0, t.mem.read 0xFF1, t.mem.read 0xFFF, t.i)) =
      some (0x01#8, 0x00#8, 0xEE#8, 0xFF0#16) := by decide
theorem test_storeRegs_fault : (after ((State.reset.setI 0xFF1#16).setReg 0 0x01#8) 0xFF55).map
    (fun t => (faultOf t, t.mem.read 0xFF1)) = some (some ⟨.outOfBoundsAccess, 0x200#16, some 0xFF55#16⟩, 0x00#8) := by
  decide
theorem test_loadRegs : (after ((dataAt 0x300#16 [0x01#8, 0x05#8, 0x07#8]).setReg 3 0x99#8) 0xF265).map
    (fun t => (t.reg 0, t.reg 1, t.reg 2, t.reg 3, t.i)) = some (0x01#8, 0x05#8, 0x07#8, 0x99#8, 0x300#16) := by
  decide
theorem test_loadRegs_fault : (after (((dataAt 0xFFF#16 [0x77#8]).setReg 0 0x09#8).setReg 1 0x09#8) 0xF165).map
    (fun t => (faultOf t, t.reg 0, t.reg 1)) =
      some (some ⟨.outOfBoundsAccess, 0x200#16, some 0xF165#16⟩, 0x09#8, 0x09#8) := by decide
/-- T86, T87: the default font, and that it is writable (decision D20). -/
theorem test_font : (after State.reset 0xF465).map (fun t => [t.reg 0, t.reg 1, t.reg 2, t.reg 3, t.reg 4]) =
      some [0xF0#8, 0x90#8, 0x90#8, 0x90#8, 0xF0#8] ∧
    (after (State.reset.setReg 0 0xAA#8) 0xF055).map (·.mem.read 0) = some 0xAA#8 ∧ font.length = 80 := by decide

/-! ### Display -/

theorem test_cls : (after ((dataAt 0x300#16 []).setReg 0xF 0x01#8) 0x00E0).map
    (fun t => (t.dirty, t.reg 0xF, t.pixel 0 0, t.pixel 31 63)) = some (true, 0x01#8, false, false) := by decide
/-- T93: both axes wrap. -/
theorem test_drw_wraps : (after (((dataAt 0x300#16 [0xFF#8, 0x81#8, 0xFF#8]).setReg 0 0x3E#8).setReg 1 0x1F#8) 0xD013).map
    (fun t => (t.fb[31], t.fb[0], t.fb[1], t.reg 0xF, t.dirty)) =
      some (0xFC00000000000003#64, 0x0400000000000002#64, 0xFC00000000000003#64, 0x00#8, true) := by decide
/-- T95: a collision, and the pixels that stay. -/
theorem test_drw_collides : (after ((dataAt 0x300#16 [0xF0#8]).setFb (blankScreen.set 0 0x3C00000000000000#64)) 0xD011).map
    (fun t => (t.fb[0], t.reg 0xF)) = some (0xCC00000000000000#64, 0x01#8) := by decide
/-- T97, T99: `n` = 0 never faults and leaves DIRTY; a sprite past 0xFFF does. -/
theorem test_drw_bounds : (after ((State.reset.setI 0xFFFF#16).setReg 0xF 0x05#8) 0xD010).map
      (fun t => (t.reg 0xF, t.dirty, t.halt)) = some (0x00#8, false, false) ∧
    (after ((State.reset.setI 0xFFF#16).setReg 0xF 0x05#8) 0xD012).map (fun t => (faultOf t, t.reg 0xF, t.dirty)) =
      some (some ⟨.outOfBoundsAccess, 0x200#16, some 0xD012#16⟩, 0x05#8, false) := by decide
/-- T102: the frame read-out. -/
theorem test_frame : (State.reset.setFb (Screen.xorPixel blankScreen 3 10 true)).frameByte 25 = 0x20#8 ∧
    (State.reset.setFb (Screen.xorPixel blankScreen 3 10 true)).frameByte 24 = 0x00#8 := by decide
/-- T101: TakeDirty. -/
theorem test_takeDirty : (State.reset.setDirty true).takeDirty.1 = true ∧
    (State.reset.setDirty true).takeDirty.2.takeDirty.1 = false := by decide

/-! ### Keys and timers -/

theorem test_skp : (after (((at_ 0x202#16).setReg 3 0x07#8).setKeys 0x0080#16) 0xE39E).map (·.pc) = some 0x206#16 ∧
    (after ((State.reset.setReg 1 0x17#8).setKeys 0x0080#16) 0xE19E).map (·.pc) = some 0x204#16 := by decide
theorem test_sknp : (after (((at_ 0x202#16).setReg 3 0x07#8).setKeys 0x0080#16) 0xE3A1).map (·.pc) = some 0x204#16 ∧
    (after ((at_ 0x202#16).setReg 3 0x07#8) 0xE3A1).map (·.pc) = some 0x206#16 := by decide
theorem test_ldVxK : (after (State.reset.setKeys 0x0880#16) 0xF30A).map (fun t => (t.reg 3, t.pc)) =
    some (0x07#8, 0x202#16) := by decide
theorem test_ldVxK_none : (after (State.reset.setReg 3 0x99#8) 0xF30A).map (fun t => (t.reg 3, t.pc)) =
    some (0x99#8, 0x200#16) := by decide
theorem test_ldVxDt : (after (State.reset.setDt 0x2A#8) 0xF107).map (fun t => (t.reg 1, t.dt)) = some (0x2A#8, 0x2A#8) := by
  decide
theorem test_ldDtVx : (after ((State.reset.setDt 0xFF#8).setReg 0 0x03#8) 0xF015).map (·.dt) = some 0x03#8 := by
  decide
theorem test_ldStVx : (after (State.reset.setReg 5 0x1E#8) 0xF518).map (fun t => (t.st, t.soundOn)) = some (0x1E#8, true) ∧
    (after (State.reset.setSt 0x09#8) 0xF518).map (fun t => (t.st, t.soundOn)) = some (0x00#8, false) := by decide
/-- T124, T127: the floor, and a tick while halted. -/
theorem test_tick : ((State.reset.setDt 1#8).tick.dt, (State.reset.setDt 1#8).tick.st) = (0#8, 0#8) ∧
    ((State.reset.raise .stackUnderflow none).setDt 5#8).tick.dt = 4#8 := by decide

/-- T14: Reset leaves a halted machine fresh; the model's draw counter alone runs on. -/
theorem test_reset_after_fault :
    { State.reset.raise .unimplementedOpcode (some 0#16) with draws := 3 }.resetEvent = { State.reset with draws := 3 } := by
  decide

/-- R233: the host's order of actions. -/
theorem test_schedule : scheduleOk .beforeReset [.reset, .load [0x12#8, 0x00#8], .setKeys 0#16, .step, .tick] = true ∧
    scheduleOk .beforeReset [.reset, .load [], .step, .load []] = false ∧ scheduleOk .beforeReset [.step] = false := by decide

/-- R200: the codes. -/
theorem test_fault_codes : [FaultKind.unimplementedOpcode, .stackOverflow, .stackUnderflow, .outOfBoundsAccess].map
    FaultKind.code = [0#2, 1#2, 2#2, 3#2] := by decide

/-! ### Witnesses: for each statement with hypotheses, a state and operands that meet them, clause by clause -/

/-- A state with a full stack, an address at its top that the next fetch would refuse, and `DIRTY` set. -/
def deep : State := ((State.reset.setSp 16#5).setSlot 15 0x1000#16).setDirty true

/-- A halted state. -/
def halted : State := State.reset.raise .stackUnderflow (some 0x00EE#16)

/-- The outcome is a next state that halts. -/
def halts (o : Host.Outcome State Fault Refusal) : Bool := (nextOf o).any (·.halt)

theorem test_witness_EncodeOfDecode : decode 0x8AB4#16 = .ok (.addReg 0xA 0xB) := by decide
theorem test_witness_DecodeFollowsOpcodeTable : decode 0xDAB5#16 = .ok (.drw 0xA 0xB 5#4) ∧
    (Instr.drw 0xA 0xB 5#4).row ∈ opcodeRows ∧ (Instr.drw 0xA 0xB 5#4).row.accepts 0xDAB5#16 = true ∧
    operandBits 12 (Instr.drw 0xA 0xB 5#4).fields = 0xAB5 := by decide
theorem test_witness_OpcodeRowsAreDisjoint :
    ⟨"CLS", 0xFFFF#16, 0x00E0#16⟩ ∈ opcodeRows ∧ OpcodeRow.accepts ⟨"CLS", 0xFFFF#16, 0x00E0#16⟩ 0x00E0#16 = true := by
  decide
theorem test_witness_FetchReadsBigEndianWord : Memory.fetch16 [] 0xFFF = none ∧
    Memory.fetch16 [(0xFFE, 0x60#8), (0xFFF, 0x05#8)] 0xFFE = some 0x6005#16 := by decide
theorem test_witness_StepRunsTheFetchedInstruction (s : State) (h : s = State.reset.withFetchWord 16 0x6A12) :
    s.halt = false ∧ s.pc.toNat + 1 ≤ 0xFFF ∧
    decodeBytes [s.mem.read s.pc.toNat, s.mem.read (s.pc.toNat + 1)] = .ok (.ldImm 0xA 0x12#8, []) := by
  subst h; decide
theorem test_witness_StepHaltsOrFaults : halted.halt = true ∧
    ((at_ 0xFFF#16).halt = false ∧ (at_ 0xFFF#16).pc.toNat + 1 > 0xFFF) ∧
    ((at_ 0xFFE#16).halt = false ∧ (at_ 0xFFE#16).pc.toNat + 1 ≤ 0xFFF ∧
      decode (wordAt (at_ 0xFFE#16) (at_ 0xFFE#16).pc.toNat) =
        .error (.unmatchedPattern (wordAt (at_ 0xFFE#16) (at_ 0xFFE#16).pc.toNat))) := by decide
theorem test_witness_CallPushesAndJumps : (State.reset.setSp 15#5).sp.toNat < 16 ∧ deep.sp.toNat = 16 := by decide
theorem test_witness_ReturnPops : (0 < deep.sp.toNat ∧ deep.sp.toNat ≤ 16) ∧ State.reset.sp.toNat = 0 := by decide
theorem test_witness_ReturnUndoesCall : (State.reset.setSp 15#5).sp.toNat < 16 ∧
    ∃ t, exec (.call 0x300#12) (State.reset.setSp 15#5) = .next t := ⟨by decide, _, rfl⟩
theorem test_witness_DepthAboveSixteenStops : 16 < (State.reset.setSp 17#5).sp.toNat := by decide
theorem test_witness_BcdStoresDigits : (dataAt 0xFFD#16 [0x01#8]).mem.wf = true ∧
    (dataAt 0xFFD#16 [0x01#8]).i.toNat + 2 ≤ 0xFFF := by decide
theorem test_witness_StoreRegistersBlock : (dataAt 0xFF0#16 [0x01#8]).mem.wf = true ∧
    (dataAt 0xFF0#16 [0x01#8]).i.toNat + (0xF : Reg).val ≤ 0xFFF := by decide
theorem test_witness_LoadRegistersBlock : (dataAt 0xFFF#16 [0x77#8]).i.toNat + (0 : Reg).val ≤ 0xFFF := by decide
theorem test_witness_DataRangeFaults : dataFault (.drw 0 1 2#4) (State.reset.setI 0xFFF#16) ∧
    dataFault (.ldB 1) (State.reset.setI 0xFFE#16) ∧ dataFault (.storeRegs 0xF) (State.reset.setI 0xFF1#16) ∧
    dataFault (.loadRegs 1) (State.reset.setI 0xFFF#16) :=
  ⟨.inl ⟨0, 1, 2#4, rfl, by decide, by decide⟩, .inr (.inl ⟨1, rfl, by decide⟩),
    .inr (.inr (.inl ⟨0xF, rfl, by decide⟩)), .inr (.inr (.inr ⟨1, rfl, by decide⟩))⟩
theorem test_witness_DataRangeFaults_only : (State.reset.setI 0xFFE#16).halt = false ∧
    ∃ t, exec (.ldB 1) (State.reset.setI 0xFFE#16) = .next t ∧ t.halt = true ∧ t.fault.kind = .outOfBoundsAccess :=
  ⟨rfl, _, rfl, rfl, rfl⟩
theorem test_witness_StoredWordIsFetched : (dataAt 0xFFE#16 [0x01#8]).mem.wf = true ∧
    (dataAt 0xFFE#16 [0x01#8]).i.toNat + (1 : Reg).val ≤ 0xFFF ∧ (1 : Reg) ≤ 1 ∧ (1 : Reg).val = (0 : Reg).val + 1 ∧
    ∃ t, exec (.storeRegs 1) (dataAt 0xFFE#16 [0x01#8]) = .next t :=
  ⟨by decide, by decide, by decide, rfl, _, rfl⟩
theorem test_witness_DrawFlipsSpritePixels : (0#4).toNat = 0 ∧ (State.reset.setI 0xFFFF#16).i.toNat > 0xFFF ∧
    (dataAt 0xFFF#16 [0x80#8]).i.toNat + (1#4).toNat - 1 ≤ 0xFFF := by decide
theorem test_witness_spritePixel : spritePixel 0 1 1#4 (dataAt 0xFFF#16 [0x80#8]) 0 0 ∧
    ¬ spritePixel 0 1 0#4 (dataAt 0xFFF#16 [0x80#8]) 0 0 :=
  ⟨⟨0, 0, by decide, by decide, by decide, by decide, by decide⟩, fun ⟨_, _, h, _⟩ => Nat.not_lt_zero _ h⟩
theorem test_witness_draw_collision : ∃ py px, spritePixel 0 1 1#4
    ((dataAt 0xFFF#16 [0x80#8]).setFb (Screen.xorPixel blankScreen 0 0 true)) py px ∧
    ((dataAt 0xFFF#16 [0x80#8]).setFb (Screen.xorPixel blankScreen 0 0 true)).pixel py px = true :=
  ⟨0, 0, ⟨0, 0, by decide, by decide, by decide, by decide, by decide⟩, by decide⟩
theorem test_witness_DrawTwiceRestoresScreen : (0 : Reg) ≠ 0xF ∧ (1 : Reg) ≠ 0xF ∧
    (dataAt 0xFFF#16 [0x80#8]).i.toNat + (1#4).toNat - 1 ≤ 0xFFF ∧
    (∃ t, exec (.drw 0 1 1#4) (dataAt 0xFFF#16 [0x80#8]) = .next t) ∧
    ∀ py px, (dataAt 0xFFF#16 [0x80#8]).pixel py px = false :=
  ⟨by decide, by decide, by decide, ⟨_, rfl⟩, fun py px => by
    simp [dataAt, State.pixel, State.reset, State.setI, State.setMem, Screen.pixel]⟩
theorem test_witness_FrameReadOutPacksPixels : (25 : Fin 256).val = 8 * (3 : Fin 32).val + (10 : Fin 64).val / 8 := by decide
theorem test_witness_WaitForKey : State.reset.keys = 0#16 ∧ (State.reset.setKeys 0x8000#16).keys ≠ 0#16 := by decide
theorem test_witness_TicksReachZero :
    ∀ e ∈ [Event.tick, .setKeys 0x0001#16, .takeDirty, .tick], e = .tick ∨ e = .takeDirty ∨ ∃ k, e = .setKeys k := by simp
/-- `DT` = 60 and the self-jump of T16 at `PC`. -/
def waiting : State := (State.reset.withFetchWord 16 0x1200).setDt 60#8

theorem test_witness_avoids (bad : Instr → Prop) (h : ¬ bad (.jp 0x200#12)) : avoids bad [.tick, .step, .tick] waiting :=
  ⟨nofun, fun _ ht => by
    cases ht
    refine ⟨fun _ i hi hb => ?_, fun _ _ => ⟨nofun, fun _ _ => trivial⟩⟩
    have hd : decode (wordAt waiting.tick waiting.tick.pc.toNat) = .ok (.jp 0x200#12) := by decide
    exact h (Except.ok.inj (hd.symm.trans hi.2.2) ▸ hb)⟩
/-- S8 with two ticks and a step between them. -/
theorem test_witness_TicksReachZero_steps : (∀ e ∈ [Event.tick, .step, .tick], e ≠ .reset) ∧
    avoids (fun i => ∃ x, i = .ldDtVx x) [.tick, .step, .tick] waiting ∧
    avoids (fun i => ∃ x, i = .ldStVx x) [.tick, .step, .tick] waiting ∧
    ∃ t, runEvents [.tick, .step, .tick] waiting = .next t ∧ t.dt = 58#8 :=
  ⟨by decide, test_witness_avoids _ nofun, test_witness_avoids _ nofun, _, rfl, rfl⟩
theorem test_witness_LoadCopiesImage : State.reset.mem.wf = true ∧ [0x12#8, 0x00#8].length ≤ 0xE00 ∧
    (List.replicate 3585 0#8).length > 0xE00 := by
  simp only [List.length_replicate]
  decide
theorem test_witness_StepKeepsInvariant : deep.Inv ∧ halted.Inv ∧
    (∃ t, step deep = .next t) ∧ ∃ t, step (deep.withFetchWord 16 0x00EE) = .next t ∧ t.pc = 0x1000#16 :=
  ⟨by decide, by decide, ⟨_, rfl⟩, _, rfl, rfl⟩
theorem test_witness_EventsKeepInvariant : deep.Inv ∧
    ∃ t, runEvents [.load [0x00#8, 0xEE#8], .tick, .step, .takeDirty, .setKeys 1#16, .reset] deep = .next t :=
  ⟨by decide, _, rfl⟩
theorem test_witness_FaultingStepIsPrecise :
    [at_ 0xFFF#16, State.reset, State.reset.withFetchWord 16 0x00EE, deep.withFetchWord 16 0x2200,
      (State.reset.setI 0xFFE#16).withFetchWord 16 0xF133].all (fun s => !s.halt && halts (step s)) = true := by decide
theorem test_witness_OnlySixInstructionsFault : (∃ t, exec .ret State.reset = .next t ∧ t.halt ≠ State.reset.halt) ∧
    (∃ t, exec (.call 0x200#12) deep = .next t ∧ t.halt ≠ deep.halt) ∧
    ∃ t, exec (.loadRegs 1) (State.reset.setI 0xFFF#16) = .next t ∧ t.halt ≠ State.reset.halt :=
  ⟨⟨_, rfl, nofun⟩, ⟨_, rfl, nofun⟩, _, rfl, nofun⟩
theorem test_witness_HaltLatchHeldUntilReset : halted.halt = true ∧ Event.tick ≠ .reset ∧
    (∃ t, Event.apply .tick halted = .next t) ∧ ∃ t, Event.apply .step halted = .next t :=
  ⟨rfl, nofun, ⟨_, rfl⟩, _, rfl⟩
theorem test_witness_IndexRegisterWriters : ∃ t, exec (.ldI 0x300#12) State.reset = .next t ∧ t.i ≠ State.reset.i :=
  ⟨_, rfl, by decide⟩
theorem test_witness_MemoryAndScreenWriters :
    (∃ t, exec (.ldB 0) ((State.reset.setI 0x300#16).setReg 0 0xFF#8) = .next t ∧ t.mem ≠ State.reset.mem) ∧
    (∃ t, exec .cls State.reset = .next t ∧ t.dirty ≠ State.reset.dirty) ∧
    deep.dirty = true ∧ ∃ t, exec .cls deep = .next t :=
  ⟨⟨_, rfl, by decide⟩, ⟨_, rfl, by decide⟩, rfl, _, rfl⟩
theorem test_witness_StackAndTimerWriters :
    (∃ t, exec (.call 0x300#12) State.reset = .next t ∧ t.sp ≠ State.reset.sp ∧ t.stack ≠ State.reset.stack) ∧
    (∃ t, exec (.ldDtVx 1) (State.reset.setReg 1 5#8) = .next t ∧ t.dt ≠ State.reset.dt) ∧
    (∃ t, exec (.ldStVx 1) (State.reset.setReg 1 5#8) = .next t ∧ t.st ≠ State.reset.st) ∧
    ∃ t, exec (.rnd 1 0xFF#8) State.reset = .next t ∧ t.draws ≠ State.reset.draws :=
  ⟨⟨_, rfl, by decide, by decide⟩, ⟨_, rfl, by decide⟩, ⟨_, rfl, by decide⟩, _, rfl, nofun⟩
theorem test_witness_GeneralRegisterWriters :
    (∃ t, exec (.ldImm 3 7#8) State.reset = .next t ∧ t.reg 3 ≠ State.reset.reg 3) ∧
    (∃ t, exec (.loadRegs 1) State.reset = .next t ∧ t.reg 1 ≠ State.reset.reg 1) ∧
    (∃ t, exec (.subReg 1 2) State.reset = .next t ∧ t.reg 0xF ≠ State.reset.reg 0xF) ∧
    ∃ t, exec (.subnReg 1 2) (State.reset.setReg 2 5#8) = .next t ∧ t.reg 1 ≠ (State.reset.setReg 2 5#8).reg 1 :=
  ⟨⟨_, rfl, by decide⟩, ⟨_, rfl, by decide⟩, ⟨_, rfl, by decide⟩, _, rfl, by decide⟩
theorem test_witness_KeysReadOnlyByKeyInstructions :
    ∀ x, Instr.drw 0 1 5#4 ≠ .skp x ∧ Instr.drw 0 1 5#4 ≠ .sknp x ∧ Instr.drw 0 1 5#4 ≠ .ldVxK x :=
  fun _ => ⟨nofun, nofun, nofun⟩
theorem test_witness_SoundAndDirtyAreNotRead : ∃ t, exec (.drw 0 1 5#4) State.reset = .next t := ⟨_, rfl⟩
theorem test_witness_SelfJumpIsFixedPoint : Ended (State.reset.withFetchWord 16 0x1200) := by decide

end Sys2Proof.Tests
end

section
/-! PROOFS. The jump and the conditional skips on registers and immediates (spec/40_control_flow.md R103, R105 to R108):
first what one such instruction does, then the statements. -/

namespace Sys2Proof.Machine

/-! ### The next state of each instruction -/

theorem exec_jp (nnn : Addr12) (s : State) : exec (.jp nnn) s = .next (s.setPc (zextAddr nnn)) := rfl

theorem exec_seImm (x : Reg) (nn : Byte) (s : State) :
    exec (.seImm x nn) s = .next (s.skipIf (s.reg x == nn)) := rfl

theorem exec_sneImm (x : Reg) (nn : Byte) (s : State) :
    exec (.sneImm x nn) s = .next (s.skipIf (s.reg x != nn)) := rfl

theorem exec_seReg (x y : Reg) (s : State) :
    exec (.seReg x y) s = .next (s.skipIf (s.reg x == s.reg y)) := rfl

theorem exec_sneReg (x y : Reg) (s : State) :
    exec (.sneReg x y) s = .next (s.skipIf (s.reg x != s.reg y)) := rfl

/-! ### The target and the skip -/

@[simp] theorem zextAddr_toNat (nnn : Addr12) : (zextAddr nnn).toNat = nnn.toNat :=
  BitVec.toNat_setWidth_of_le (by decide)

/-- R111, the sum taken out of the condition. -/
theorem State.skipIf_pc_eq_add (s : State) (c : Bool) :
    (s.skipIf c).pc = s.pc + (if c then 4#16 else 2#16) := by
  cases c <;> rfl

/-- An instruction that skips when two bytes agree (SE). -/
theorem skips_of_eq {i : Instr} {a b : Byte} {s : State} (h : exec i s = .next (s.skipIf (a == b))) :
    ∃ t, exec i s = .next t ∧ t.pc = s.pc + (if a = b then 4#16 else 2#16) ∧ Unchanged (· = .pc) s t := by
  refine ⟨_, h, ?_, unchanged_skipIf s _⟩
  simp only [State.skipIf_pc_eq_add, beq_iff_eq]

/-- An instruction that skips when two bytes differ (SNE). -/
theorem skips_of_ne {i : Instr} {a b : Byte} {s : State} (h : exec i s = .next (s.skipIf (a != b))) :
    ∃ t, exec i s = .next t ∧ t.pc = s.pc + (if a = b then 2#16 else 4#16) ∧ Unchanged (· = .pc) s t := by
  refine ⟨_, h, ?_, unchanged_skipIf s _⟩
  simp only [State.skipIf_pc_eq_add, bne_iff_ne, ne_eq, ite_not]

end Sys2Proof.Machine

namespace Sys2Proof

/-! ### The words, format by format, with the major nibble first as R75 writes them -/

theorem packNNN_toNat_of_major {m : BitVec 4} (nnn : Addr12) {base : Nat} (hbase : base = m.toNat * 4096) :
    (packNNN m nnn).toNat = base + nnn.toNat := by
  rw [packNNN_toNat, hbase]

theorem packXNN_toNat_of_major {m : BitVec 4} (x : Reg) (nn : Byte) {base : Nat} (hbase : base = m.toNat * 4096) :
    (packXNN m x nn).toNat = base + 256 * x.val + nn.toNat := by
  rw [packXNN_toNat, hbase, Nat.mul_comm 256]

theorem packXYN_toNat_of_fixed {m n : BitVec 4} (x y : Reg) {base : Nat} (hbase : base = m.toNat * 4096 + n.toNat) :
    (packXYN m x y n).toNat = base + 256 * x.val + 16 * y.val := by
  rw [packXYN_toNat, hbase]; omega

open Sys2Proof.Machine

/-- Settles O11 (R103): the word is format `NNN` with major 1, and the only update is `PC`, to `nnn` zero-extended. -/
theorem jumpSetsProgramCounter : Obligations.JumpSetsProgramCounter := by
  intro nnn s
  exact ⟨packNNN_toNat_of_major nnn rfl, _, exec_jp nnn s, zextAddr_toNat nnn, unchanged_setPc s _⟩

/-- Settles O17 (R105, R106): both words are format `XNN`, and both instructions are one skip on `Vx` against `nn`. -/
theorem immediateSkips : Obligations.ImmediateSkips := by
  intro x nn s
  exact ⟨packXNN_toNat_of_major x nn rfl, packXNN_toNat_of_major x nn rfl,
    skips_of_eq (exec_seImm x nn s), skips_of_ne (exec_sneImm x nn s)⟩

/-- Settles O18 (R107, R108): both words are format `XY` with low nibble 0, and both instructions are one skip on `Vx`
against `Vy`. -/
theorem registerSkips : Obligations.RegisterSkips := by
  intro x y s
  exact ⟨packXYN_toNat_of_fixed x y rfl, packXYN_toNat_of_fixed x y rfl,
    skips_of_eq (exec_seReg x y s), skips_of_ne (exec_sneReg x y s)⟩

end Sys2Proof
end

section
/-! PROOFS. The two loads into a register and the addition of an immediate (spec/41_register_alu.md R121 to R123): what an
instruction that writes one register and goes on does, then the statements. -/

namespace Sys2Proof.Machine

/-! ### The next state of each instruction -/

theorem exec_ldImm (x : Reg) (nn : Byte) (s : State) :
    exec (.ldImm x nn) s = .next (s.setReg x nn).advance := rfl

theorem exec_ldReg (x y : Reg) (s : State) :
    exec (.ldReg x y) s = .next (s.setReg x (s.reg y)).advance := rfl

theorem exec_addImm (x : Reg) (nn : Byte) (s : State) :
    exec (.addImm x nn) s = .next (s.setReg x (s.reg x + nn)).advance := rfl

/-! ### One register written, `PC` moved on -/

theorem unchanged_setReg_advance (s : State) (x : Reg) (b : Byte) :
    Unchanged (fun p => p = .reg x ∨ p = .pc) s (s.setReg x b).advance :=
  ((unchanged_setReg s x b).mono fun _ => .inl).trans ((unchanged_advance _).mono fun _ => .inr)

/-- An instruction that writes one register and moves on (R101): the register holds the byte, `VF` being outside the frame
only as that register. -/
theorem writesRegister_of_setReg_advance {i : Instr} {x : Reg} {b : Byte} {s : State}
    (h : exec i s = .next (s.setReg x b).advance) :
    ∃ t, exec i s = .next t ∧ t.reg x = b ∧ t.pc = s.pc + 2#16 ∧
      Unchanged (fun p => p = .reg x ∨ p = .pc) s t := by
  refine ⟨_, h, ?_, ?_, unchanged_setReg_advance s x b⟩
  · rw [State.advance_reg, State.setReg_reg, if_pos rfl]
  · rw [State.advance_pc, State.setReg_pc]

end Sys2Proof.Machine

namespace Sys2Proof

open Sys2Proof.Machine

/-- Settles O19 (R121, R123): the words are format `XNN` and format `XY` with low nibble 0, and both instructions write `Vx`
and move on. -/
theorem loadsIntoRegister : Obligations.LoadsIntoRegister :=
  ⟨fun x nn s => ⟨packXNN_toNat_of_major x nn rfl, writesRegister_of_setReg_advance (exec_ldImm x nn s)⟩,
    fun x y s => ⟨packXYN_toNat_of_fixed x y rfl, writesRegister_of_setReg_advance (exec_ldReg x y s)⟩⟩

/-- Settles O20 (R122): the word is format `XNN`, and the byte written to `Vx` is a sum of bytes, hence modulo 256. -/
theorem addImmediateWraps : Obligations.AddImmediateWraps := by
  intro x nn s
  obtain ⟨t, ht, hx, hpc, hframe⟩ := writesRegister_of_setReg_advance (exec_addImm x nn s)
  have hsum : (t.reg x).toNat = ((s.reg x).toNat + nn.toNat) % 256 := by
    rw [hx]; exact BitVec.toNat_add _ _
  exact ⟨packXNN_toNat_of_major x nn rfl, t, ht, hsum, hpc, hframe⟩

end Sys2Proof
end

section
/-! PROOFS. The load of the index register (spec/42_index_memory.md R141): what an instruction that writes `I` and goes on
does, then the statement. -/

namespace Sys2Proof.Machine

theorem exec_ldI (nnn : Addr12) (s : State) : exec (.ldI nnn) s = .next (s.setI (zextAddr nnn)).advance := rfl

theorem unchanged_setI_advance (s : State) (w : Word) :
    Unchanged (fun p => p = .index ∨ p = .pc) s (s.setI w).advance :=
  ((unchanged_setI s w).mono fun _ => .inl).trans ((unchanged_advance _).mono fun _ => .inr)

/-- An instruction that writes the index register and moves on (R101). -/
theorem writesIndex_of_setI_advance {i : Instr} {w : Word} {s : State} (h : exec i s = .next (s.setI w).advance) :
    ∃ t, exec i s = .next t ∧ t.i = w ∧ t.pc = s.pc + 2#16 ∧ Unchanged (fun p => p = .index ∨ p = .pc) s t := by
  refine ⟨_, h, ?_, ?_, unchanged_setI_advance s w⟩
  · rw [State.advance_i, State.setI_i]
  · rw [State.advance_pc, State.setI_pc]

end Sys2Proof.Machine

namespace Sys2Proof

open Sys2Proof.Machine

/-- Settles O27 (R141): the word is format `NNN` with major 0xA, and `I` is written with `nnn` zero-extended. -/
theorem loadIndexImmediate : Obligations.LoadIndexImmediate := by
  intro nnn s
  obtain ⟨t, ht, hi, hpc, hframe⟩ := writesIndex_of_setI_advance (exec_ldI nnn s)
  have hindex : t.i.toNat = nnn.toNat := by
    rw [hi, zextAddr_toNat]
  exact ⟨packNNN_toNat_of_major nnn rfl, t, ht, hindex, hpc, hframe⟩

end Sys2Proof
end

section
/-! PROOFS. The clearing of the display (spec/43_display.md R161): what an instruction that writes the framebuffer and `DIRTY`
and goes on does, then the statement. -/

namespace Sys2Proof.Machine

theorem exec_cls (s : State) : exec .cls s = .next ((s.setFb blankScreen).setDirty true).advance := rfl

/-- The three updates, each with its own frame: the screen, the dirty mark and the move to the next instruction. -/
theorem unchanged_setFb_setDirty_advance (s : State) (f : Screen) (d : Bool) :
    Unchanged (fun p => p = .dirty ∨ p = .pc ∨ ∃ y x, p = .pixel y x) s ((s.setFb f).setDirty d).advance :=
  (((unchanged_setFb s f).mono fun _ hscreen => .inr (.inr hscreen)).trans
    ((unchanged_setDirty _ d).mono fun _ => .inl)).trans
    ((unchanged_advance _).mono fun _ hpc => .inr (.inl hpc))

end Sys2Proof.Machine

namespace Sys2Proof

open Sys2Proof.Machine

/-- Settles O35 (R161): the word is the constant of row 1, the new screen is the blank one, and `DIRTY` is written whatever
the old frame was. -/
theorem clearScreenBlanks : Obligations.ClearScreenBlanks := by
  refine ⟨rfl, fun s => ⟨_, exec_cls s, fun y x => ?_, ?_, ?_, unchanged_setFb_setDirty_advance s blankScreen true⟩⟩
  · rw [State.advance_pixel, State.setDirty_pixel, State.setFb_pixel, pixel_blankScreen]
  · rw [State.advance_dirty, State.setDirty_dirty]
  · rw [State.advance_pc, State.setDirty_pc, State.setFb_pc]

end Sys2Proof
end

section
/-! PROOFS. The decoder and the encoder (spec/30_encoding.md R70 to R76): both round trips, the mask and match list and the
illegal words. A case split over the instructions goes by their formats (R72), the split of a word by its major nibble. -/

namespace Sys2Proof

open Sys2Proof.Claims

/-! ### The two round trips -/

theorem decode_encode (i : Instr) : decode (encode i) = .ok i := by
  cases i with
  | cls | ret => rfl
  | jp | call | ldI | jpV0 => simp [encode, decode]
  | seImm | sneImm | ldImm | addImm | rnd => simp [encode, decode]
  | seReg | sneReg => simp [encode, decode, decodeNibbleZero]
  | ldReg | orReg | andReg | xorReg | addReg | subReg | shrReg | subnReg | shlReg => simp [encode, decode, decodeMajor8]
  | drw => simp [encode, decode]
  | skp | sknp => simp [encode, decode, decodeMajorE]
  | ldVxDt | ldDtVx | ldStVx | addI | ldVxK | ldF | ldB | storeRegs | loadRegs => simp [encode, decode, decodeMajorF]

/-- Settles O1, format by format: the major nibble and the fixed fields of the packed word select the decoder's branch, and
the fields read back are the operands. -/
theorem decodeOfEncode : Obligations.DecodeOfEncode := decode_encode

/-- A word is the `NNN` word of its major nibble and field. -/
theorem packNNN_of_major {w : Word} {m : BitVec 4} (hm : (major w).toNat = m.toNat) : packNNN m (fieldNNN w) = w := by
  rw [← BitVec.eq_of_toNat_eq hm, packNNN_fields]

/-- A word is the `NNN` word of its fixed nibble and fixed field. -/
theorem packNNN_of_fixed {w : Word} {m : BitVec 4} {nnn : Addr12} (hm : (major w).toNat = m.toNat)
    (hnnn : (fieldNNN w).toNat = nnn.toNat) : packNNN m nnn = w := by
  rw [← BitVec.eq_of_toNat_eq hnnn, packNNN_of_major hm]

/-- A word is the `XNN` word of its major nibble and fields. -/
theorem packXNN_of_major {w : Word} {m : BitVec 4} (hm : (major w).toNat = m.toNat) :
    packXNN m (fieldX w) (fieldNN w) = w := by
  rw [← BitVec.eq_of_toNat_eq hm, packXNN_fields]

/-- A word is the `X` word of its fixed nibble and byte and its register field. -/
theorem packX_of_fixed {w : Word} {m : BitVec 4} {nn : Byte} (hm : (major w).toNat = m.toNat)
    (hnn : (fieldNN w).toNat = nn.toNat) : packXNN m (fieldX w) nn = w := by
  rw [← BitVec.eq_of_toNat_eq hnn, packXNN_of_major hm]

/-- A word is the `XYN` word of its major nibble and fields. -/
theorem packXYN_of_major {w : Word} {m : BitVec 4} (hm : (major w).toNat = m.toNat) :
    packXYN m (fieldX w) (fieldY w) (fieldN w) = w := by
  rw [← BitVec.eq_of_toNat_eq hm, packXYN_fields]

/-- A word is the `XY` word of its two fixed nibbles and its register fields. -/
theorem packXY_of_fixed {w : Word} {m n : BitVec 4} (hm : (major w).toNat = m.toNat)
    (hn : (fieldN w).toNat = n.toNat) : packXYN m (fieldX w) (fieldY w) n = w := by
  rw [← BitVec.eq_of_toNat_eq hn, packXYN_of_major hm]

theorem encode_of_decodeMajor0 {w : Word} {i : Instr} (hm : (major w).toNat = 0x0) (h : decodeMajor0 w = .ok i) :
    encode i = w := by
  unfold decodeMajor0 at h
  split at h <;> cases h
  · exact packNNN_of_fixed (m := 0x0#4) (nnn := 0x0E0#12) hm ‹_›
  · exact packNNN_of_fixed (m := 0x0#4) (nnn := 0x0EE#12) hm ‹_›

theorem encode_of_decodeNibbleZero {w : Word} {i j : Instr} (h : decodeNibbleZero w j = .ok i)
    (hj : (fieldN w).toNat = 0x0 → encode j = w) : encode i = w := by
  unfold decodeNibbleZero at h
  split at h <;> cases h
  exact hj ‹_›

theorem encode_of_decodeMajor8 {w : Word} {i : Instr} (hm : (major w).toNat = 0x8) (h : decodeMajor8 w = .ok i) :
    encode i = w := by
  unfold decodeMajor8 at h
  split at h <;> cases h
  all_goals exact packXY_of_fixed hm ‹_›

theorem encode_of_decodeMajorE {w : Word} {i : Instr} (hm : (major w).toNat = 0xE) (h : decodeMajorE w = .ok i) :
    encode i = w := by
  unfold decodeMajorE at h
  split at h <;> cases h
  all_goals exact packX_of_fixed hm ‹_›

theorem encode_of_decodeMajorF {w : Word} {i : Instr} (hm : (major w).toNat = 0xF) (h : decodeMajorF w = .ok i) :
    encode i = w := by
  unfold decodeMajorF at h
  split at h <;> cases h
  all_goals exact packX_of_fixed hm ‹_›

/-- The branches of the decoder, major by major. -/
theorem encode_of_decode {w : Word} {i : Instr} (h : decode w = .ok i) : encode i = w := by
  unfold decode at h
  split at h
  case h_1 hm => exact encode_of_decodeMajor0 hm h
  case h_6 hm | h_10 hm => exact encode_of_decodeNibbleZero h fun hn => packXY_of_fixed hm hn
  case h_9 hm => exact encode_of_decodeMajor8 hm h
  case h_15 hm => exact encode_of_decodeMajorE hm h
  case h_16 =>
    have hlt := (major w).isLt
    simp only [imp_false] at *
    exact encode_of_decodeMajorF (by omega) h
  case h_2 hm | h_3 hm | h_11 hm | h_12 hm => cases h; exact packNNN_of_major hm
  case h_14 hm => cases h; exact packXYN_of_major hm
  all_goals cases h; exact packXNN_of_major ‹_›

/-- Settles O2: each branch of the decoder fixes the major nibble and the fixed fields, and a word is the word of its own
fields. -/
theorem encodeOfDecode : Obligations.EncodeOfDecode := fun _ _ => encode_of_decode

/-! ### The mask and match list -/

theorem row_accepts_encode (i : Instr) : i.row.accepts (encode i) = true := by
  cases i with
  | cls | ret => rfl
  | jp | call | ldI | jpV0 => exact Laws.OwnRow.accepts_packNNN _ _ _
  | seImm | sneImm | ldImm | addImm | rnd => exact Laws.OwnRow.accepts_packXNN _ _ _ _
  | drw => exact Laws.OwnRow.accepts_packXYN _ _ _ _ _
  | seReg | sneReg | ldReg | orReg | andReg | xorReg | addReg | subReg | shrReg | subnReg | shlReg =>
    exact Laws.OwnRow.accepts_packXY _ _ _ _ _
  | skp | sknp | ldVxDt | ldDtVx | ldStVx | addI | ldVxK | ldF | ldB | storeRegs | loadRegs =>
    exact Laws.OwnRow.accepts_packX _ _ _ _

theorem row_mem_opcodeRows (i : Instr) : i.row ∈ opcodeRows := by
  cases i <;> dsimp only [Instr.row] <;> decide

/-- The word decodes to an instruction of this row. -/
abbrev Selected (w : Word) (r : OpcodeRow) : Prop := ∃ i, decode w = .ok i ∧ i.row = r

theorem selected_of_encode {w : Word} {i : Instr} (h : encode i = w) : Selected w i.row :=
  ⟨i, h ▸ decode_encode i, rfl⟩

theorem major_of_accepts {name : String} {value w : Word} (h : OpcodeRow.accepts ⟨name, 0xF000#16, value⟩ w = true) :
    major w = major value := by
  have hv : w &&& 0xF000#16 = value := by simpa [OpcodeRow.accepts] using h
  rw [← hv, mask_F000, major_packNNN]

theorem fixed_of_accepts_XY {name : String} {value w : Word}
    (h : OpcodeRow.accepts ⟨name, 0xF00F#16, value⟩ w = true) : major w = major value ∧ fieldN w = fieldN value := by
  have hv : w &&& 0xF00F#16 = value := by simpa [OpcodeRow.accepts] using h
  rw [← hv, mask_F00F, major_packXYN, fieldN_packXYN]
  exact ⟨rfl, rfl⟩

theorem fixed_of_accepts_X {name : String} {value w : Word}
    (h : OpcodeRow.accepts ⟨name, 0xF0FF#16, value⟩ w = true) : major w = major value ∧ fieldNN w = fieldNN value := by
  have hv : w &&& 0xF0FF#16 = value := by simpa [OpcodeRow.accepts] using h
  rw [← hv, mask_F0FF, major_packXNN, fieldNN_packXNN]
  exact ⟨rfl, rfl⟩

theorem selected_fixed {w : Word} {name : String} {value : Word} (i : Instr) (hi : encode i = value)
    (hrow : i.row = ⟨name, 0xFFFF#16, value⟩) (h : OpcodeRow.accepts ⟨name, 0xFFFF#16, value⟩ w = true) :
    Selected w ⟨name, 0xFFFF#16, value⟩ := by
  have hv : w &&& 0xFFFF#16 = value := by simpa [OpcodeRow.accepts] using h
  rw [show (0xFFFF#16) = BitVec.allOnes 16 from rfl, BitVec.and_allOnes] at hv
  exact hrow ▸ selected_of_encode (hi.trans hv.symm)

theorem selected_NNN {w : Word} {name : String} {value : Word} (i : Addr12 → Instr)
    (hi : ∀ nnn, encode (i nnn) = packNNN (major value) nnn) (hrow : ∀ nnn, (i nnn).row = ⟨name, 0xF000#16, value⟩)
    (h : OpcodeRow.accepts ⟨name, 0xF000#16, value⟩ w = true) : Selected w ⟨name, 0xF000#16, value⟩ :=
  hrow (fieldNNN w) ▸ selected_of_encode ((hi _).trans (packNNN_of_major (congrArg _ (major_of_accepts h))))

theorem selected_XNN {w : Word} {name : String} {value : Word} (i : Reg → Byte → Instr)
    (hi : ∀ x nn, encode (i x nn) = packXNN (major value) x nn) (hrow : ∀ x nn, (i x nn).row = ⟨name, 0xF000#16, value⟩)
    (h : OpcodeRow.accepts ⟨name, 0xF000#16, value⟩ w = true) : Selected w ⟨name, 0xF000#16, value⟩ :=
  hrow (fieldX w) (fieldNN w) ▸
    selected_of_encode ((hi _ _).trans (packXNN_of_major (congrArg _ (major_of_accepts h))))

theorem selected_XYN {w : Word} {name : String} {value : Word} (i : Reg → Reg → BitVec 4 → Instr)
    (hi : ∀ x y n, encode (i x y n) = packXYN (major value) x y n)
    (hrow : ∀ x y n, (i x y n).row = ⟨name, 0xF000#16, value⟩)
    (h : OpcodeRow.accepts ⟨name, 0xF000#16, value⟩ w = true) : Selected w ⟨name, 0xF000#16, value⟩ :=
  hrow (fieldX w) (fieldY w) (fieldN w) ▸
    selected_of_encode ((hi _ _ _).trans (packXYN_of_major (congrArg _ (major_of_accepts h))))

theorem selected_XY {w : Word} {name : String} {value : Word} (i : Reg → Reg → Instr)
    (hi : ∀ x y, encode (i x y) = packXYN (major value) x y (fieldN value))
    (hrow : ∀ x y, (i x y).row = ⟨name, 0xF00F#16, value⟩)
    (h : OpcodeRow.accepts ⟨name, 0xF00F#16, value⟩ w = true) : Selected w ⟨name, 0xF00F#16, value⟩ := by
  obtain ⟨hm, hn⟩ := fixed_of_accepts_XY h
  exact hrow (fieldX w) (fieldY w) ▸
    selected_of_encode ((hi _ _).trans (packXY_of_fixed (congrArg _ hm) (congrArg _ hn)))

theorem selected_X {w : Word} {name : String} {value : Word} (i : Reg → Instr)
    (hi : ∀ x, encode (i x) = packXNN (major value) x (fieldNN value))
    (hrow : ∀ x, (i x).row = ⟨name, 0xF0FF#16, value⟩)
    (h : OpcodeRow.accepts ⟨name, 0xF0FF#16, value⟩ w = true) : Selected w ⟨name, 0xF0FF#16, value⟩ := by
  obtain ⟨hm, hnn⟩ := fixed_of_accepts_X h
  exact hrow (fieldX w) ▸ selected_of_encode ((hi _).trans (packX_of_fixed (congrArg _ hm) (congrArg _ hnn)))

theorem selected_rowsLow {w : Word} : ∀ r ∈ rowsLow, r.accepts w = true → Selected w r := by
  simp only [rowsLow, List.forall_mem_cons, List.not_mem_nil, false_implies, implies_true, and_true]
  exact ⟨selected_fixed .cls rfl rfl, selected_fixed .ret rfl rfl,
    selected_NNN .jp (fun _ => rfl) fun _ => rfl, selected_NNN .call (fun _ => rfl) fun _ => rfl,
    selected_XNN .seImm (fun _ _ => rfl) fun _ _ => rfl, selected_XNN .sneImm (fun _ _ => rfl) fun _ _ => rfl,
    selected_XY .seReg (fun _ _ => rfl) fun _ _ => rfl,
    selected_XNN .ldImm (fun _ _ => rfl) fun _ _ => rfl, selected_XNN .addImm (fun _ _ => rfl) fun _ _ => rfl⟩

theorem selected_rowsMid {w : Word} : ∀ r ∈ rowsMid, r.accepts w = true → Selected w r := by
  simp only [rowsMid, List.forall_mem_cons, List.not_mem_nil, false_implies, implies_true, and_true]
  exact ⟨selected_XY .ldReg (fun _ _ => rfl) fun _ _ => rfl, selected_XY .orReg (fun _ _ => rfl) fun _ _ => rfl,
    selected_XY .andReg (fun _ _ => rfl) fun _ _ => rfl, selected_XY .xorReg (fun _ _ => rfl) fun _ _ => rfl,
    selected_XY .addReg (fun _ _ => rfl) fun _ _ => rfl, selected_XY .subReg (fun _ _ => rfl) fun _ _ => rfl,
    selected_XY .shrReg (fun _ _ => rfl) fun _ _ => rfl, selected_XY .subnReg (fun _ _ => rfl) fun _ _ => rfl,
    selected_XY .shlReg (fun _ _ => rfl) fun _ _ => rfl, selected_XY .sneReg (fun _ _ => rfl) fun _ _ => rfl,
    selected_NNN .ldI (fun _ => rfl) fun _ => rfl, selected_NNN .jpV0 (fun _ => rfl) fun _ => rfl,
    selected_XNN .rnd (fun _ _ => rfl) fun _ _ => rfl, selected_XYN .drw (fun _ _ _ => rfl) fun _ _ _ => rfl⟩

theorem selected_rowsHigh {w : Word} : ∀ r ∈ rowsHigh, r.accepts w = true → Selected w r := by
  simp only [rowsHigh, List.forall_mem_cons, List.not_mem_nil, false_implies, implies_true, and_true]
  exact ⟨selected_X .skp (fun _ => rfl) fun _ => rfl, selected_X .sknp (fun _ => rfl) fun _ => rfl,
    selected_X .ldVxDt (fun _ => rfl) fun _ => rfl, selected_X .ldDtVx (fun _ => rfl) fun _ => rfl,
    selected_X .ldStVx (fun _ => rfl) fun _ => rfl, selected_X .addI (fun _ => rfl) fun _ => rfl,
    selected_X .ldVxK (fun _ => rfl) fun _ => rfl, selected_X .ldF (fun _ => rfl) fun _ => rfl,
    selected_X .ldB (fun _ => rfl) fun _ => rfl, selected_X .storeRegs (fun _ => rfl) fun _ => rfl,
    selected_X .loadRegs (fun _ => rfl) fun _ => rfl⟩

/-- R76: a word that a row of the list accepts is an instruction of that row. -/
theorem selected_of_accepts {w : Word} {r : OpcodeRow} (hr : r ∈ opcodeRows) (h : r.accepts w = true) :
    Selected w r := by
  rcases List.mem_append.mp hr with hr | hr
  · rcases List.mem_append.mp hr with hr | hr
    · exact selected_rowsLow r hr h
    · exact selected_rowsMid r hr h
  · exact selected_rowsHigh r hr h

/-- R71, R72: the word is the match value of its row plus the operand fields. -/
theorem encode_toNat (i : Instr) : (encode i).toNat = i.row.value.toNat + operandBits 12 i.fields := by
  cases i with
  | cls | ret => rfl
  | jp | call | ldI | jpV0 =>
    simp only [encode, packNNN_toNat, Instr.row, Instr.fields, operandBits, BitVec.toNat_ofNat]; omega
  | seImm | sneImm | ldImm | addImm | rnd | skp | sknp | ldVxDt | ldDtVx | ldStVx | addI | ldVxK | ldF | ldB | storeRegs
    | loadRegs =>
    simp only [encode, packXNN_toNat, Instr.row, Instr.fields, operandBits, BitVec.toNat_ofNat]; omega
  | drw | seReg | sneReg | ldReg | orReg | andReg | xorReg | addReg | subReg | shrReg | subnReg | shlReg =>
    simp only [encode, packXYN_toNat, Instr.row, Instr.fields, operandBits, BitVec.toNat_ofNat]; omega

/-- Settles O3: a word that decodes is the word of its instruction, whose own row accepts it; and an accepting row fixes the
nibbles that select the decoder's branch. -/
theorem decodeFollowsOpcodeTable : Obligations.DecodeFollowsOpcodeTable := by
  refine fun w => ⟨fun i hi => ?_, fun r hr h => selected_of_accepts hr h⟩
  obtain rfl := encode_of_decode hi
  exact ⟨row_mem_opcodeRows i, row_accepts_encode i, encode_toNat i⟩

/-- Settles O4: the word decodes to an instruction of each row that accepts it, and it decodes to one instruction only. -/
theorem opcodeRowsAreDisjoint : Obligations.OpcodeRowsAreDisjoint := by
  intro w r r' hr hr' h h'
  obtain ⟨i, hi, rfl⟩ := selected_of_accepts hr h
  obtain ⟨j, hj, rfl⟩ := selected_of_accepts hr' h'
  obtain rfl : i = j := Except.ok.inj (hi.symm.trans hj)
  rfl

/-! ### The illegal words (R76), decoder by decoder -/

theorem decodeMajor0_error_iff (w : Word) : decodeMajor0 w = .error (.unmatchedPattern w) ↔
    w.toNat % 4096 ≠ 0x0E0 ∧ w.toNat % 4096 ≠ 0x0EE := by
  rw [decodeMajor0, ← fieldNNN_toNat]
  split <;> simp_all

theorem decodeNibbleZero_error_iff (w : Word) (i : Instr) :
    decodeNibbleZero w i = .error (.unmatchedPattern w) ↔ w.toNat % 16 ≠ 0 := by
  rw [decodeNibbleZero, ← fieldN_toNat]
  split <;> simp_all

theorem decodeMajor8_error_iff (w : Word) : decodeMajor8 w = .error (.unmatchedPattern w) ↔
    w.toNat % 16 ∈ [0x8, 0x9, 0xA, 0xB, 0xC, 0xD, 0xF] := by
  have hlt := (fieldN w).isLt
  rw [decodeMajor8, ← fieldN_toNat]
  split
  case h_10 => simp only [List.mem_cons, imp_false] at *; simp; omega
  all_goals simp_all

theorem decodeMajorE_error_iff (w : Word) : decodeMajorE w = .error (.unmatchedPattern w) ↔
    w.toNat % 256 ∉ [0x9E, 0xA1] := by
  rw [decodeMajorE, ← fieldNN_toNat]
  split <;> simp_all

theorem decodeMajorF_error_iff (w : Word) : decodeMajorF w = .error (.unmatchedPattern w) ↔
    w.toNat % 256 ∉ [0x07, 0x0A, 0x15, 0x18, 0x1E, 0x29, 0x33, 0x55, 0x65] := by
  rw [decodeMajorF, ← fieldNN_toNat]
  split <;> simp_all

/-- Settles O5: the major nibble selects one disjunct and one decoder, and each decoder refuses exactly the words the
disjunct names. -/
theorem illegalWordsAreRefused : Obligations.IllegalWordsAreRefused := by
  intro w
  have hlt := (major w).isLt
  rw [decode, ← major_toNat]
  split
  case h_1 hm => simp [hm, decodeMajor0_error_iff]
  case h_6 hm | h_10 hm => simp [hm, decodeNibbleZero_error_iff]
  case h_9 hm => simp [hm, decodeMajor8_error_iff]
  case h_15 hm => simp [hm, decodeMajorE_error_iff]
  case h_16 =>
    have hm : (major w).toNat = 0xF := by simp only [imp_false] at *; omega
    simp [hm, decodeMajorF_error_iff]
  all_goals simp_all

/-! ### Sample words and byte strings -/

/-- Settles O6, one word after the other. -/
theorem sampleWordsDecode : Obligations.SampleWordsDecode := by
  refine ⟨?_, ?_, ?_, ?_, ?_, ?_, ?_⟩ <;> decide

theorem wordOfBytes_eq_ofNat (hi lo : Byte) : wordOfBytes hi lo = BitVec.ofNat 16 (hi.toNat * 256 + lo.toNat) :=
  BitVec.eq_of_toNat_eq (by rw [wordOfBytes_toNat, BitVec.toNat_ofNat]; omega)

/-- Settles O7: the first two bytes make the word, the byte at the lower address the high half. -/
theorem bytesDecodeBigEndian : Obligations.BytesDecodeBigEndian := by
  refine ⟨fun hi lo rest => ?_, rfl, fun _ => rfl⟩
  rw [decodeBytes, wordOfBytes_eq_ofNat]

end Sys2Proof
end

section
/-! PROOFS. The fetch and the step (spec/20_memory.md R52, R54; spec/40_control_flow.md R100): one equation per way a step can
go, then the statements. -/

namespace Sys2Proof.Machine

open Sys2Proof.Claims

theorem wordAt_eq_wordOfBytes (s : State) (a : Nat) : wordAt s a = wordOfBytes (s.mem.read a) (s.mem.read (a + 1)) :=
  (wordOfBytes_eq_ofNat _ _).symm

theorem fetch16_eq_wordAt (s : State) {a : Nat} (h : a + 1 ≤ 0xFFF) : s.mem.fetch16 a = some (wordAt s a) := by
  rw [s.mem.fetch16_of_le h, wordAt_eq_wordOfBytes]

/-- The fetch fault (R204). -/
theorem step_of_pc_gt {s : State} (hrun : s.halt = false) (hpc : s.pc.toNat + 1 > 0xFFF) :
    step s = .next (s.raise .outOfBoundsAccess none) := by
  simp only [step, hrun, Bool.false_eq_true, if_false, s.mem.fetch16_of_gt hpc]

/-- The decode fault (R201). -/
theorem step_of_decode_error {s : State} {e : DecodeError} (hrun : s.halt = false) (hpc : s.pc.toNat + 1 ≤ 0xFFF)
    (hd : decode (wordAt s s.pc.toNat) = .error e) :
    step s = .next (s.raise .unimplementedOpcode (some (wordAt s s.pc.toNat))) := by
  simp only [step, hrun, Bool.false_eq_true, if_false, fetch16_eq_wordAt s hpc, hd]

/-- The instruction executed (R100). -/
theorem step_of_runs {s : State} {i : Instr} (h : runs s i) : step s = exec i s := by
  obtain ⟨hrun, hpc, hd⟩ := h
  simp only [step, hrun, Bool.false_eq_true, if_false, fetch16_eq_wordAt s hpc, hd]

end Sys2Proof.Machine

namespace Sys2Proof

open Sys2Proof.Machine Sys2Proof.Claims

/-- Settles O8 (R52), the two cases of the bounds check. -/
theorem fetchReadsBigEndianWord : Obligations.FetchReadsBigEndianWord :=
  fun m _ => ⟨m.fetch16_of_gt, fun h => ⟨_, m.fetch16_of_le h, wordOfBytes_toNat _ _⟩⟩

theorem decode_of_decodeBytes {hi lo : Byte} {i : Instr} (h : decodeBytes [hi, lo] = .ok (i, [])) :
    decode (wordOfBytes hi lo) = .ok i := by
  rw [decodeBytes] at h
  cases hd : decode (wordOfBytes hi lo) with
  | error e => rw [hd] at h; cases h
  | ok j => rw [hd] at h; cases h; rfl

/-- Settles O9 (R100): the byte decoder reads the word the step fetches. -/
theorem stepRunsTheFetchedInstruction : Obligations.StepRunsTheFetchedInstruction := by
  intro s i hrun hpc hbytes
  refine step_of_runs ⟨hrun, hpc, ?_⟩
  rw [wordAt_eq_wordOfBytes, decode_of_decodeBytes hbytes]

/-- Settles O10 (R204, R208, R210): the halted step, the fetch fault and the decode fault, each by its equation of the
step. -/
theorem stepHaltsOrFaultsBeforeExecuting : Obligations.StepHaltsOrFaultsBeforeExecuting :=
  ⟨fun _ => step_of_halt,
    fun s hrun hpc => ⟨_, step_of_pc_gt hrun hpc, rfl, rfl, unchanged_raise s _ _⟩,
    fun s hrun hpc hd => ⟨_, step_of_decode_error hrun hpc hd, rfl, rfl, unchanged_raise s _ _⟩⟩

/-- Settles O60 (R240): the word at `PC` is a jump to the low 12 bits of `PC`, which are the whole of it below 0xFFF. -/
theorem selfJumpIsFixedPoint : Obligations.SelfJumpIsFixedPoint := by
  rintro s ⟨hrun, hpc, hfetch⟩
  rw [fetch16_eq_wordAt s (by omega)] at hfetch
  have hd : decode (wordAt s s.pc.toNat) = .ok (.jp (s.pc.setWidth 12)) := by
    rw [Option.some.inj hfetch]; exact decode_encode (.jp _)
  have htarget : zextAddr (s.pc.setWidth 12) = s.pc :=
    BitVec.eq_of_toNat_eq (by rw [zextAddr_toNat, BitVec.toNat_setWidth]; omega)
  rw [step_of_runs ⟨hrun, by omega, hd⟩, exec_jp, htarget]
  rfl

end Sys2Proof
end

section
/-! PROOFS. What the execution of an instruction can answer, said once: it completes, faults for its own cause (R200 to R205),
or stands at no depth (log 8). What each field holds after it is read off the completion. -/

namespace Sys2Proof.Machine

open Sys2Proof.Claims

/-! ### The completion of an instruction -/

/-- The registers after `LD Vx, K` (R183): as before while no key is pressed. -/
def waitRegs (x : Reg) (s : State) : Vector Byte 16 :=
  match lowestKey s.keys with
  | none => s.v
  | some k => (s.setReg x (BitVec.ofNat 8 k)).v

/-- `PC` after `LD Vx, K` (R183). -/
def waitPc (s : State) : Word := if (lowestKey s.keys).isSome then s.pc + 2#16 else s.pc

/-- The state in which an instruction completes: with the checks of R53, R102 and R104 passed, `LD Vx, K` as one update and
`RND` with the step's draw; for an instruction that has none of these, what `exec` answers. `exec_cases` ties it to the
model. -/
def completion (i : Instr) (s : State) : State :=
  match i with
  | .ret => (s.setSp (s.sp - 1#5)).setPc (s.slot (Fin.ofNat 16 (s.sp - 1#5).toNat))
  | .call nnn => ((s.setSlot (Fin.ofNat 16 s.sp.toNat) (s.pc + 2#16)).setSp (s.sp + 1#5)).setPc (zextAddr nnn)
  | .drw x y n => (((s.setFb (drawn x y n s).1).setReg flagReg (flagByte (drawn x y n s).2)).setDirty
      (dirtyAfterDraw n s)).advance
  | .ldVxK x => (s.setRegs (waitRegs x s)).setPc (waitPc s)
  | .ldB x => (s.setMem (s.mem.writeBlock (dataAddr s 0) (bcdDigits (s.reg x)))).advance
  | .storeRegs x => (s.setMem (s.mem.writeBlock (dataAddr s 0) (regBlock x s))).advance
  | .loadRegs x => (s.setRegs (loadedRegs x s)).advance
  | .rnd x nn => rndWith (Config.draw s.draws) x nn s
  | i =>
    match exec i s with
    | .next t => t
    | _ => s

/-- The cause of each kind of fault an instruction can end in (R202 to R204). -/
def FaultCause (i : Instr) (s : State) : FaultKind → Prop
  | .unimplementedOpcode => False
  | .stackOverflow => ∃ nnn, i = .call nnn ∧ s.sp.toNat = 16
  | .stackUnderflow => i = .ret ∧ s.sp.toNat = 0
  | .outOfBoundsAccess => dataFault i s

/-! The four data sites of R204, in the form of the range check -/

theorem dataFault_drw (x y : Reg) (n : BitVec 4) (s : State) :
    dataFault (.drw x y n) s ↔ 0 < n.toNat ∧ s.i.toNat + n.toNat - 1 > 0xFFF := by
  simp [dataFault]

theorem dataFault_ldB (x : Reg) (s : State) : dataFault (.ldB x) s ↔ 0 < 3 ∧ s.i.toNat + 3 - 1 > 0xFFF := by
  simp [dataFault]

theorem dataFault_storeRegs (x : Reg) (s : State) :
    dataFault (.storeRegs x) s ↔ 0 < blockCount x ∧ s.i.toNat + blockCount x - 1 > 0xFFF := by
  simp [dataFault, blockCount]

theorem dataFault_loadRegs (x : Reg) (s : State) :
    dataFault (.loadRegs x) s ↔ 0 < blockCount x ∧ s.i.toNat + blockCount x - 1 > 0xFFF := by
  simp [dataFault, blockCount]

/-! The instructions that may do something else than complete -/

theorem exec_ret (s : State) : exec .ret s = popAndJump .ret s := rfl

theorem exec_call (nnn : Addr12) (s : State) :
    exec (.call nnn) s = pushAndJump (.call nnn) (s.pc + 2#16) (zextAddr nnn) s := rfl

theorem exec_drw (x y : Reg) (n : BitVec 4) (s : State) :
    exec (.drw x y n) s = withRange (.drw x y n) n.toNat s (completion (.drw x y n) s) := rfl

theorem exec_ldB (x : Reg) (s : State) : exec (.ldB x) s = withRange (.ldB x) 3 s (completion (.ldB x) s) := rfl

theorem exec_storeRegs (x : Reg) (s : State) :
    exec (.storeRegs x) s = withRange (.storeRegs x) (blockCount x) s (completion (.storeRegs x) s) := rfl

theorem exec_loadRegs (x : Reg) (s : State) :
    exec (.loadRegs x) s = withRange (.loadRegs x) (blockCount x) s (completion (.loadRegs x) s) := rfl

theorem exec_ldVxK (x : Reg) (s : State) : exec (.ldVxK x) s = .next (completion (.ldVxK x) s) := by
  simp only [exec, execLdVxK, completion, waitRegs, waitPc]
  cases lowestKey s.keys <;> rfl

theorem exec_call_of_lt (nnn : Addr12) {s : State} (h : s.sp.toNat < 16) :
    exec (.call nnn) s = .next (completion (.call nnn) s) := by
  have hslot : (⟨s.sp.toNat, h⟩ : Fin 16) = Fin.ofNat 16 s.sp.toNat := Fin.ext (Nat.mod_eq_of_lt h).symm
  rw [exec_call, pushAndJump_of_lt h, hslot]
  rfl

theorem sp_ne_zero {d : BitVec 5} (h : 0 < d.toNat) : d ≠ 0#5 := by
  rintro rfl; exact absurd h (by decide)

theorem exec_ret_of_pos {s : State} (h0 : 0 < s.sp.toNat) (h : s.sp.toNat ≤ 16) :
    exec .ret s = .next (completion .ret s) := by
  have hne := sp_ne_zero h0
  have hlt : (s.sp - 1#5).toNat < 16 := by rw [sp_pred_toNat hne]; omega
  have hslot : (⟨(s.sp - 1#5).toNat, hlt⟩ : Fin 16) = Fin.ofNat 16 (s.sp - 1#5).toNat :=
    Fin.ext (Nat.mod_eq_of_lt hlt).symm
  rw [exec_ret, popAndJump_of_pos hne hlt, hslot]
  rfl

/-! ### The three answers -/

/-- An instruction completes, faults for its own cause, or is a call or a return at no depth (log 8). -/
def Answers (i : Instr) (s : State) : Prop :=
  ((∀ kind, ¬ FaultCause i s kind) ∧ exec i s = .next (completion i s)) ∨
  (∃ kind, FaultCause i s kind ∧ exec i s = faultOn kind i s) ∨
  (16 < s.sp.toNat ∧ exec i s = .fault .stackDepthAboveSixteen)

/-- An instruction without a check completes. -/
theorem answers_of_next {i : Instr} {s : State} (hcause : ∀ kind, ¬ FaultCause i s kind)
    (h : exec i s = .next (completion i s)) : Answers i s :=
  .inl ⟨hcause, h⟩

/-- An instruction with a data range completes exactly when the range lies in `MEM`. -/
theorem answers_of_withRange {i : Instr} {s : State} {count : Nat}
    (hrange : dataFault i s ↔ 0 < count ∧ s.i.toNat + count - 1 > 0xFFF)
    (hcause : ∀ kind, kind ≠ .outOfBoundsAccess → ¬ FaultCause i s kind)
    (h : exec i s = withRange i count s (completion i s)) : Answers i s := by
  by_cases hout : dataFault i s
  · exact .inr (.inl ⟨.outOfBoundsAccess, hout, by rw [h, withRange_of_out (hrange.mp hout)]⟩)
  · refine .inl ⟨fun kind => ?_, by rw [h, withRange_of_in (mt hrange.mpr hout)]⟩
    by_cases hkind : kind = .outOfBoundsAccess
    · rw [hkind]; exact hout
    · exact hcause kind hkind

theorem answers_call (nnn : Addr12) (s : State) : Answers (.call nnn) s := by
  rcases Nat.lt_trichotomy s.sp.toNat 16 with hlt | hfull | hgt
  · refine .inl ⟨fun kind => ?_, exec_call_of_lt nnn hlt⟩
    cases kind <;> simp [FaultCause, dataFault, Nat.ne_of_lt hlt]
  · have hsp : s.sp = 16#5 := BitVec.eq_of_toNat_eq hfull
    exact .inr (.inl ⟨.stackOverflow, ⟨nnn, rfl, hfull⟩, by rw [exec_call, pushAndJump_of_full hsp]⟩)
  · exact .inr (.inr ⟨hgt, by rw [exec_call, pushAndJump_of_gt hgt]⟩)

theorem answers_ret (s : State) : Answers .ret s := by
  rcases Nat.eq_zero_or_pos s.sp.toNat with hempty | hpos
  · have hsp : s.sp = 0#5 := BitVec.eq_of_toNat_eq hempty
    exact .inr (.inl ⟨.stackUnderflow, ⟨rfl, hempty⟩, by rw [exec_ret, popAndJump_of_empty hsp]⟩)
  · rcases Nat.lt_or_ge 16 s.sp.toNat with hgt | hle
    · exact .inr (.inr ⟨hgt, by rw [exec_ret, popAndJump_of_gt hgt]⟩)
    · refine .inl ⟨fun kind => ?_, exec_ret_of_pos hpos hle⟩
      cases kind <;> simp [FaultCause, dataFault, Nat.ne_of_gt hpos]

theorem exec_cases (i : Instr) (s : State) : Answers i s := by
  cases i with
  | ret => exact answers_ret s
  | call nnn => exact answers_call nnn s
  | drw x y n =>
    exact answers_of_withRange (dataFault_drw x y n s) (by rintro ⟨⟩ <;> simp [FaultCause]) (exec_drw x y n s)
  | ldB x => exact answers_of_withRange (dataFault_ldB x s) (by rintro ⟨⟩ <;> simp [FaultCause]) (exec_ldB x s)
  | storeRegs x =>
    exact answers_of_withRange (dataFault_storeRegs x s) (by rintro ⟨⟩ <;> simp [FaultCause]) (exec_storeRegs x s)
  | loadRegs x =>
    exact answers_of_withRange (dataFault_loadRegs x s) (by rintro ⟨⟩ <;> simp [FaultCause]) (exec_loadRegs x s)
  | ldVxK x => exact answers_of_next (by rintro ⟨⟩ <;> simp [FaultCause, dataFault]) (exec_ldVxK x s)
  | _ => exact answers_of_next (by rintro ⟨⟩ <;> simp [FaultCause, dataFault]) rfl

/-- The next states of an instruction: its completion, or the fault it has a cause for. -/
theorem exec_next_cases {i : Instr} {s t : State} (h : exec i s = .next t) :
    ((∀ kind, ¬ FaultCause i s kind) ∧ t = completion i s) ∨
    ∃ kind, FaultCause i s kind ∧ t = s.raise kind (some (encode i)) := by
  rcases exec_cases i s with ⟨hcause, hnext⟩ | ⟨kind, hcause, hfault⟩ | ⟨-, hstop⟩
  · exact .inl ⟨hcause, Host.Outcome.next.inj (h.symm.trans hnext)⟩
  · exact .inr ⟨kind, hcause, Host.Outcome.next.inj (h.symm.trans hfault)⟩
  · rw [hstop] at h; cases h

/-- At a depth the machine can reach, an instruction answers a next state. -/
theorem exec_next_of_depth (i : Instr) {s : State} (h : s.sp.toNat ≤ 16) : ∃ t, exec i s = .next t := by
  rcases exec_cases i s with ⟨-, hnext⟩ | ⟨kind, -, hfault⟩ | ⟨hgt, -⟩
  · exact ⟨_, hnext⟩
  · exact ⟨_, hfault⟩
  · omega

/-- What a fault leaves alone differs only after a completion. -/
theorem completion_of_ne {α : Type} {get : State → α} (hraise : ∀ s kind op, get (s.raise kind op) = get s)
    {i : Instr} {s t : State} (h : exec i s = .next t) (hne : get t ≠ get s) : t = completion i s := by
  rcases exec_next_cases h with ⟨-, ht⟩ | ⟨kind, -, ht⟩
  · exact ht
  · exact absurd (by rw [ht, hraise]) hne

end Sys2Proof.Machine
end

section
/-! PROOFS. The writers of each field over all instructions (spec/10_state.md R20 to R33, spec/60_exceptions.md R205): the field
is compared on the completion, instruction by instruction, since a fault leaves it alone. The state is taken apart before a
`rfl`, so that the field's projection computes and the unifier does not compare the register vectors first. -/

namespace Sys2Proof.Machine

open Sys2Proof.Claims

/-! ### Fields no completion writes -/

@[simp] theorem completion_halt (i : Instr) (s : State) : (completion i s).halt = s.halt := by
  cases s; cases i <;> rfl

@[simp] theorem completion_fault (i : Instr) (s : State) : (completion i s).fault = s.fault := by
  cases s; cases i <;> rfl

@[simp] theorem completion_keys (i : Instr) (s : State) : (completion i s).keys = s.keys := by
  cases s; cases i <;> rfl

/-! ### The writers of the other fields -/

theorem completion_i_writers {i : Instr} {s : State} (h : (completion i s).i ≠ s.i) :
    (∃ nnn, i = .ldI nnn) ∨ (∃ x, i = .addI x) ∨ ∃ x, i = .ldF x := by
  cases i with
  | ldI nnn => exact .inl ⟨nnn, rfl⟩
  | addI x => exact .inr (.inl ⟨x, rfl⟩)
  | ldF x => exact .inr (.inr ⟨x, rfl⟩)
  | _ => cases s; exact absurd rfl h

theorem completion_mem_writers {i : Instr} {s : State} (h : (completion i s).mem ≠ s.mem) :
    (∃ x, i = .ldB x) ∨ ∃ x, i = .storeRegs x := by
  cases i with
  | ldB x => exact .inl ⟨x, rfl⟩
  | storeRegs x => exact .inr ⟨x, rfl⟩
  | _ => cases s; exact absurd rfl h

theorem completion_screen_writers {i : Instr} {s : State}
    (h : (completion i s).fb ≠ s.fb ∨ (completion i s).dirty ≠ s.dirty) : i = .cls ∨ ∃ x y n, i = .drw x y n := by
  cases i with
  | cls => exact .inl rfl
  | drw x y n => exact .inr ⟨x, y, n, rfl⟩
  | _ => cases s; exact absurd rfl (h.resolve_left (absurd rfl))

theorem completion_dirty_of_dirty {i : Instr} {s : State} (h : s.dirty = true) : (completion i s).dirty = true := by
  cases i with
  | cls => rfl
  | drw x y n => show (s.dirty || decide (0 < n.toNat)) = true; rw [h, Bool.true_or]
  | _ => cases s; exact h

theorem completion_sp_writers {i : Instr} {s : State} (h : (completion i s).sp ≠ s.sp) :
    i = .ret ∨ ∃ nnn, i = .call nnn := by
  cases i with
  | ret => exact .inl rfl
  | call nnn => exact .inr ⟨nnn, rfl⟩
  | _ => cases s; exact absurd rfl h

theorem completion_stack_writers {i : Instr} {s : State} (h : (completion i s).stack ≠ s.stack) :
    ∃ nnn, i = .call nnn := by
  cases i with
  | call nnn => exact ⟨nnn, rfl⟩
  | _ => cases s; exact absurd rfl h

theorem completion_dt_writers {i : Instr} {s : State} (h : (completion i s).dt ≠ s.dt) : ∃ x, i = .ldDtVx x := by
  cases i with
  | ldDtVx x => exact ⟨x, rfl⟩
  | _ => cases s; exact absurd rfl h

theorem completion_st_writers {i : Instr} {s : State} (h : (completion i s).st ≠ s.st) : ∃ x, i = .ldStVx x := by
  cases i with
  | ldStVx x => exact ⟨x, rfl⟩
  | _ => cases s; exact absurd rfl h

theorem completion_draws_writers {i : Instr} {s : State} (h : (completion i s).draws ≠ s.draws) :
    ∃ x nn, i = .rnd x nn := by
  cases i with
  | rnd x nn => exact ⟨x, nn, rfl⟩
  | _ => cases s; exact absurd rfl h

/-! ### General registers -/

theorem eq_of_setReg_ne {s : State} {x k : Reg} {b : Byte} (h : (s.setReg x b).reg k ≠ s.reg k) : k = x := by
  by_contra hk
  exact h (by rw [State.setReg_reg, if_neg hk])

theorem flagByte_eq (c : Bool) : flagByte c = 0#8 ∨ flagByte c = 1#8 := by
  cases c
  · exact .inl rfl
  · exact .inr rfl

/-- A result with its flag changes the result's register, or `VF` to 0 or 1. -/
theorem setRegAndFlag_writers {s : State} {x k : Reg} {b : Byte} {c : Bool}
    (h : (s.setRegAndFlag x b c).reg k ≠ s.reg k) :
    (k = 0xF ∧ ((s.setRegAndFlag x b c).reg k = 0#8 ∨ (s.setRegAndFlag x b c).reg k = 1#8)) ∨ k = x := by
  by_cases hk : k = flagReg
  · refine .inl ⟨hk, ?_⟩
    rw [State.setRegAndFlag, State.setReg_reg, if_pos hk]
    exact flagByte_eq c
  · rw [State.setRegAndFlag, State.setReg_reg, if_neg hk] at h
    exact .inr (eq_of_setReg_ne h)

theorem waitRegs_writers {s : State} {x k : Reg} (h : (waitRegs x s)[k.val]'k.isLt ≠ s.reg k) : k = x := by
  unfold waitRegs at h
  split at h
  · exact absurd rfl h
  · exact eq_of_setReg_ne h

theorem loadedRegs_writers {s : State} {x k : Reg} (h : (loadedRegs x s)[k.val]'k.isLt ≠ s.reg k) : k ≤ x := by
  by_contra hk
  refine h ?_
  rw [loadedRegs, Vector.getElem_ofFn]
  exact if_neg hk

theorem completion_reg_writers {i : Instr} {s : State} {k : Reg} (h : (completion i s).reg k ≠ s.reg k) :
    destination i = some k ∨ (∃ x, i = .loadRegs x ∧ k ≤ x) ∨
    (writesFlag i = true ∧ k = 0xF ∧ ((completion i s).reg k = 0#8 ∨ (completion i s).reg k = 1#8)) ∨
    ∃ y, i = .addReg k y ∨ i = .subReg k y ∨ i = .shrReg k y ∨ i = .subnReg k y ∨ i = .shlReg k y := by
  cases i with
  | ldImm | addImm | ldReg | orReg | andReg | xorReg | rnd | ldVxDt =>
    exact .inl (congrArg some (eq_of_setReg_ne h).symm)
  | ldVxK x => exact .inl (congrArg some (waitRegs_writers h).symm)
  | loadRegs x => exact .inr (.inl ⟨x, rfl, loadedRegs_writers h⟩)
  | drw x y n =>
    have hk : k = flagReg := eq_of_setReg_ne (s := s.setFb _) h
    refine .inr (.inr (.inl ⟨rfl, hk, ?_⟩))
    rw [show (completion (.drw x y n) s).reg k = ((s.setFb _).setReg flagReg (flagByte (drawn x y n s).2)).reg k from rfl,
      State.setReg_reg, if_pos hk]
    exact flagByte_eq _
  | addReg x y | subReg x y | shrReg x y | subnReg x y | shlReg x y =>
    rcases setRegAndFlag_writers h with hflag | rfl
    · exact .inr (.inr (.inl ⟨rfl, hflag⟩))
    · exact .inr (.inr (.inr ⟨y, by simp⟩))
  | _ => cases s; exact absurd rfl h

end Sys2Proof.Machine
end

section
/-! PROOFS. The statements over all instructions: the invariant, the faults and their causes, and the writers of each field. -/

namespace Sys2Proof.Machine

open Sys2Proof.Claims

/-! ### The invariant on a completion (spec/10_state.md R35) -/

theorem bcdDigits_length (v : Byte) : (bcdDigits v).length = 3 := rfl

theorem regBlock_length (x : Reg) (s : State) : (regBlock x s).length = blockCount x := by
  have hx := x.isLt
  simp only [regBlock, blockCount, List.length_take, Vector.length_toList]
  omega

theorem completion_mem_wf {i : Instr} {s : State} (hmem : s.mem.wf = true) (hrange : ¬ dataFault i s) :
    (completion i s).mem.wf = true := by
  by_cases hsame : (completion i s).mem = s.mem
  · rwa [hsame]
  · rcases completion_mem_writers hsame with ⟨x, rfl⟩ | ⟨x, rfl⟩
    · rw [dataFault_ldB] at hrange
      exact Memory.wf_writeBlock hmem (by rw [bcdDigits_length, dataAddr, Config.memSize]; omega)
    · rw [dataFault_storeRegs, blockCount] at hrange
      exact Memory.wf_writeBlock hmem (by rw [regBlock_length, blockCount, dataAddr, Config.memSize]; omega)

theorem completion_sp_le {i : Instr} {s : State} (hsp : s.sp.toNat ≤ 16) (hcause : ∀ kind, ¬ FaultCause i s kind) :
    (completion i s).sp.toNat ≤ 16 := by
  by_cases hsame : (completion i s).sp = s.sp
  · rwa [hsame]
  · rcases completion_sp_writers hsame with rfl | ⟨nnn, rfl⟩
    · have hne : s.sp ≠ 0#5 := fun h0 => hcause .stackUnderflow ⟨rfl, by rw [h0]; rfl⟩
      show (s.sp - 1#5).toNat ≤ 16
      rw [sp_pred_toNat hne]; omega
    · have hne : s.sp.toNat ≠ 16 := fun h16 => hcause .stackOverflow ⟨nnn, rfl, h16⟩
      show (s.sp + 1#5).toNat ≤ 16
      rw [sp_succ_toNat (by omega)]; omega

theorem pc_add_toNat_le {w d : Word} (hw : w.toNat ≤ 0xFFE) (hd : d.toNat ≤ 4) : (w + d).toNat ≤ 0x10FE := by
  rw [BitVec.toNat_add]; omega

theorem zextAddr_toNat_le (nnn : Addr12) : (zextAddr nnn).toNat ≤ 0x10FE := by
  rw [zextAddr_toNat]; omega

theorem zextByte_toNat (b : Byte) : (zextByte b).toNat = b.toNat := BitVec.toNat_setWidth_of_le (by decide)

/-- R109: the sum of a 12-bit address and a byte is at most 0xFFF + 0xFF and does not wrap. -/
theorem zextAddr_add_zextByte_toNat (nnn : Addr12) (b : Byte) :
    (zextAddr nnn + zextByte b).toNat = nnn.toNat + b.toNat := by
  rw [BitVec.toNat_add, zextAddr_toNat, zextByte_toNat]; omega

theorem skipIf_pc_toNat_le {s : State} (hpc : s.pc.toNat ≤ 0xFFE) (c : Bool) : (s.skipIf c).pc.toNat ≤ 0x10FE := by
  rw [State.skipIf_pc_eq_add]
  exact pc_add_toNat_le hpc (by cases c <;> decide)

theorem completion_pc_le {i : Instr} {s : State} (hpc : s.pc.toNat ≤ 0xFFE) (hslot : ∀ k, (s.slot k).toNat ≤ 0x1000) :
    (completion i s).pc.toNat ≤ 0x10FE := by
  cases i with
  | ret => exact (hslot _).trans (by decide)
  | jp nnn | call nnn => exact zextAddr_toNat_le nnn
  | jpV0 nnn =>
    have hsum := zextAddr_add_zextByte_toNat nnn (s.reg 0)
    exact hsum.trans_le (by omega)
  | seImm | sneImm | seReg | sneReg | skp | sknp => exact skipIf_pc_toNat_le hpc _
  | ldVxK x =>
    show (if _ then s.pc + 2#16 else s.pc).toNat ≤ 0x10FE
    split
    · exact pc_add_toNat_le hpc (by decide)
    · omega
  | _ => cases s; exact pc_add_toNat_le hpc (by decide)

theorem completion_slot_le {i : Instr} {s : State} (hpc : s.pc.toNat ≤ 0xFFE) (hslot : ∀ k, (s.slot k).toNat ≤ 0x1000)
    (k : Fin 16) : ((completion i s).slot k).toNat ≤ 0x1000 := by
  by_cases hsame : (completion i s).stack = s.stack
  · simp only [State.slot, hsame]
    exact hslot k
  · obtain ⟨nnn, rfl⟩ := completion_stack_writers hsame
    show ((s.setSlot _ (s.pc + 2#16)).slot k).toNat ≤ 0x1000
    rw [State.setSlot_slot]
    split
    · rw [BitVec.toNat_add, BitVec.toNat_ofNat]; omega
    · exact hslot k

/-- Entering a fault keeps the invariant, the record naming `PC` (R208). -/
theorem inv_raise {s : State} (h : s.Inv) (kind : FaultKind) (op : Option Word) : (s.raise kind op).Inv := by
  obtain ⟨hmem, hsp, hpc, hslot, -⟩ := h
  exact ⟨hmem, hsp, hpc, hslot, fun _ => rfl⟩

/-- An instruction executed where it can be fetched keeps the invariant. -/
theorem inv_exec {i : Instr} {s t : State} (hinv : s.Inv) (hrun : s.halt = false) (hpc : s.pc.toNat + 1 ≤ 0xFFF)
    (h : exec i s = .next t) : t.Inv := by
  rcases exec_next_cases h with ⟨hcause, rfl⟩ | ⟨kind, -, rfl⟩
  · obtain ⟨hmem, hsp, -, hslot, -⟩ := hinv
    have hpc : s.pc.toNat ≤ 0xFFE := by omega
    refine ⟨completion_mem_wf hmem (hcause .outOfBoundsAccess), completion_sp_le hsp hcause,
      completion_pc_le hpc hslot, completion_slot_le hpc hslot, fun hhalt => ?_⟩
    rw [completion_halt, hrun] at hhalt
    cases hhalt
  · exact inv_raise hinv kind _

theorem inv_step {s t : State} (hinv : s.Inv) (h : step s = .next t) : t.Inv := by
  cases hrun : s.halt with
  | true =>
    rw [step_of_halt hrun] at h
    cases h; exact hinv
  | false =>
    rcases step_cases hrun h with ⟨-, rfl⟩ | ⟨hpc, w, -, ⟨-, rfl⟩ | ⟨i, -, hexec⟩⟩
    · exact inv_raise hinv _ _
    · exact inv_raise hinv _ _
    · exact inv_exec hinv hrun hpc hexec

theorem inv_reset : State.reset.Inv := by decide

/-- Nothing in the invariant speaks of the draw counter. -/
theorem inv_resetEvent (s : State) : s.resetEvent.Inv := inv_reset

theorem apply_load_of_fits {bytes : List Byte} (h : bytes.length ≤ 0xE00) (s : State) :
    Event.apply (.load bytes) s = .next (s.load bytes) :=
  if_pos (decide_eq_true h)

theorem apply_load_of_long {bytes : List Byte} (h : bytes.length > 0xE00) (s : State) :
    Event.apply (.load bytes) s = .refused .imageTooLong :=
  if_neg fun hfits => absurd (of_decide_eq_true hfits) (Nat.not_le.mpr h)

/-- A Load that answers a next state had an image that fits (R232). -/
theorem apply_load_next {bytes : List Byte} {s t : State} (h : Event.apply (.load bytes) s = .next t) :
    bytes.length ≤ 0xE00 ∧ t = s.load bytes := by
  rcases Nat.lt_or_ge 0xE00 bytes.length with hlong | hfits
  · rw [apply_load_of_long hlong] at h; cases h
  · rw [apply_load_of_fits hfits] at h; cases h; exact ⟨hfits, rfl⟩

theorem inv_load {s : State} {bytes : List Byte} (hinv : s.Inv) (hlen : bytes.length ≤ 0xE00) : (s.load bytes).Inv := by
  obtain ⟨hmem, hsp, hpc, hslot, hhalt⟩ := hinv
  refine ⟨Memory.wf_writeBlock hmem ?_, hsp, hpc, hslot, hhalt⟩
  rw [Config.progBase, Config.memSize]; omega

theorem inv_apply {e : Event} {s t : State} (hinv : s.Inv) (h : e.apply s = .next t) : t.Inv := by
  cases e with
  | reset => cases h; exact inv_resetEvent s
  | load bytes =>
    obtain ⟨hlen, rfl⟩ := apply_load_next h
    exact inv_load hinv hlen
  | step => exact inv_step hinv h
  | setKeys k => cases h; exact hinv
  | tick => cases h; exact hinv
  | takeDirty => cases h; exact hinv

theorem runEvents_cons_next {e : Event} {es : List Event} {s t : State} (h : runEvents (e :: es) s = .next t) :
    ∃ u, e.apply s = .next u ∧ runEvents es u = .next t := by
  rw [runEvents] at h
  split at h
  · exact ⟨_, ‹_›, h⟩
  · cases h
  · cases h

theorem inv_runEvents {es : List Event} {s t : State} (hinv : s.Inv) (h : runEvents es s = .next t) : t.Inv := by
  induction es generalizing s with
  | nil => cases h; exact hinv
  | cons e es ih =>
    obtain ⟨u, he, hes⟩ := runEvents_cons_next h
    exact ih (inv_apply hinv he) hes

end Sys2Proof.Machine

namespace Sys2Proof

open Sys2Proof.Machine Sys2Proof.Claims

/-- Settles O47: a field of the reset state per clause. -/
theorem resetMeetsInvariant : Obligations.ResetMeetsInvariant := inv_reset

/-- Settles O48: the step holds still, enters a fault, or completes an instruction, and each keeps every clause. -/
theorem stepKeepsInvariant : Obligations.StepKeepsInvariant := fun _ _ => inv_step

/-- Settles O49, by induction on the events. -/
theorem eventsKeepInvariant : Obligations.EventsKeepInvariant := fun _ _ _ => inv_runEvents

/-- Settles O50: only a call or a return at a depth above 16 answers no next state. -/
theorem stepAlwaysAnswersNext : Obligations.StepAlwaysAnswersNext := by
  rintro s ⟨-, hsp, -, -, -⟩
  cases hrun : s.halt with
  | true => exact ⟨s, step_of_halt hrun⟩
  | false =>
    by_cases hpc : s.pc.toNat + 1 > 0xFFF
    · exact ⟨_, step_of_pc_gt hrun hpc⟩
    · have hpc : s.pc.toNat + 1 ≤ 0xFFF := by omega
      cases hd : decode (wordAt s s.pc.toNat) with
      | error e => exact ⟨_, step_of_decode_error hrun hpc hd⟩
      | ok i => rw [step_of_runs ⟨hrun, hpc, hd⟩]; exact exec_next_of_depth i hsp

/-- Settles O51: the three ways a step can halt a running machine; an instruction's fault has its own cause, and the word it
records is the word that decoded to it. -/
theorem faultingStepIsPrecise : Obligations.FaultingStepIsPrecise := by
  intro s t hrun hstep hhalt
  rcases step_cases hrun hstep with ⟨hpc, rfl⟩ | ⟨hpc, w, hw, ⟨hd, rfl⟩ | ⟨i, hd, hexec⟩⟩
  · exact ⟨unchanged_raise s _ _, rfl, fun _ => ⟨rfl, hpc⟩, fun w hop => by cases hop⟩
  · rw [← wordAt_eq_wordOfBytes] at hw
    refine ⟨unchanged_raise s _ _, rfl, fun hop => (by cases hop), fun w' hop => ?_⟩
    obtain rfl : w = w' := Option.some.inj hop
    refine ⟨hpc, hw, fun _ i hi => ?_, fun hk => (by cases hk), fun hk => (by cases hk), fun hk => (by cases hk)⟩
    rw [hd] at hi; cases hi
  · rw [← wordAt_eq_wordOfBytes] at hw
    rcases exec_next_cases hexec with ⟨-, rfl⟩ | ⟨kind, hcause, rfl⟩
    · rw [completion_halt, hrun] at hhalt; cases hhalt
    · refine ⟨unchanged_raise s _ _, rfl, fun hop => (by cases hop), fun w' hop => ?_⟩
      obtain rfl : w = w' := (encode_of_decode hd).symm.trans (Option.some.inj hop)
      refine ⟨hpc, hw, ?_, ?_, ?_, ?_⟩ <;> rintro rfl
      · exact hcause.elim
      · obtain ⟨nnn, rfl, hsp⟩ := hcause
        exact ⟨nnn, hd, hsp⟩
      · obtain ⟨rfl, hsp⟩ := hcause
        exact ⟨hd, hsp⟩
      · exact ⟨i, hd, hcause⟩

/-- Settles O52: a completion writes neither HALT nor FAULT, and a fault has its cause. -/
theorem onlySixInstructionsFault : Obligations.OnlySixInstructionsFault := by
  intro i s t h hne
  rcases exec_next_cases h with ⟨-, rfl⟩ | ⟨kind, hcause, rfl⟩
  · simp at hne
  · refine ⟨rfl, ?_⟩
    cases kind with
    | unimplementedOpcode => exact hcause.elim
    | stackOverflow => exact .inr (.inl hcause)
    | stackUnderflow => exact .inl hcause
    | outOfBoundsAccess => exact .inr (.inr hcause)

/-- Settles O53 (R210): a halted step changes nothing, and the other four events do not touch the three fields. -/
theorem haltLatchHeldUntilReset : Obligations.HaltLatchHeldUntilReset := by
  intro e s t hhalt hne h
  cases e with
  | reset => exact absurd rfl hne
  | load bytes =>
    obtain ⟨-, rfl⟩ := apply_load_next h
    exact ⟨hhalt, rfl, rfl⟩
  | step =>
    have hstep : step s = .next t := h
    rw [step_of_halt hhalt] at hstep
    cases hstep; exact ⟨hhalt, rfl, rfl⟩
  | setKeys k => cases h; exact ⟨hhalt, rfl, rfl⟩
  | tick => cases h; exact ⟨hhalt, rfl, rfl⟩
  | takeDirty => cases h; exact ⟨hhalt, rfl, rfl⟩

/-- Settles O54: a fault leaves `I`, and three completions write it. -/
theorem indexRegisterWriters : Obligations.IndexRegisterWriters := by
  intro i s t h hne
  obtain rfl := completion_of_ne (get := State.i) (fun _ _ _ => rfl) h hne
  exact completion_i_writers hne

/-- Settles O55; that DIRTY stays set holds of a fault as well, which leaves it alone. -/
theorem memoryAndScreenWriters : Obligations.MemoryAndScreenWriters := by
  intro i s t h
  rcases exec_next_cases h with ⟨-, rfl⟩ | ⟨kind, -, rfl⟩
  · exact ⟨completion_mem_writers, completion_screen_writers, completion_dirty_of_dirty⟩
  · exact ⟨fun hne => absurd rfl hne, fun hne => by simp at hne, id⟩

/-- Settles O56: a fault leaves all six, and each has its own writers among the completions. -/
theorem stackAndTimerWriters : Obligations.StackAndTimerWriters := by
  intro i s t h
  rcases exec_next_cases h with ⟨-, rfl⟩ | ⟨kind, -, rfl⟩
  · exact ⟨completion_sp_writers, completion_stack_writers, completion_dt_writers, completion_st_writers,
      completion_keys i s, completion_draws_writers⟩
  · exact ⟨fun hne => absurd rfl hne, fun hne => absurd rfl hne, fun hne => absurd rfl hne, fun hne => absurd rfl hne,
      rfl, fun hne => absurd rfl hne⟩

/-- Settles O57: a fault leaves the registers, and a completion writes its destination, its block or its flag. -/
theorem generalRegisterWriters : Obligations.GeneralRegisterWriters := by
  intro i s t k h hne
  obtain rfl := completion_of_ne (get := (·.reg k)) (fun _ _ _ => rfl) h hne
  exact completion_reg_writers hne

end Sys2Proof
end

section
/-! PROOFS. What no instruction reads (spec/10_state.md R31 to R33): `KEYS` but for the three key instructions, `ST` and `DIRTY`.
The checks of the range and of the stack are shown once to look past such a field. -/

namespace Sys2Proof.Machine

open Sys2Proof.Claims

/-- An update of the state that the checks do not see and that commutes with a fault, a push and a pop. -/
structure Transparent (f : State → State) : Prop where
  index : ∀ s, (f s).i = s.i
  depth : ∀ s, (f s).sp = s.sp
  raise : ∀ s kind op, (f s).raise kind op = f (s.raise kind op)
  push : ∀ s k ret d target,
    (((f s).setSlot k ret).setSp d).setPc target = f (((s.setSlot k ret).setSp d).setPc target)
  pop : ∀ s d k, ((f s).setSp d).setPc ((f s).slot k) = f ((s.setSp d).setPc (s.slot k))

theorem transparent_setKeys (k : Word) : Transparent (·.setKeys k) :=
  ⟨fun _ => rfl, fun _ => rfl, fun _ _ _ => rfl, fun _ _ _ _ _ => rfl, fun _ _ _ => rfl⟩

theorem transparent_setSt_setDirty (b : Byte) (d : Bool) : Transparent fun s => (s.setSt b).setDirty d :=
  ⟨fun _ => rfl, fun _ => rfl, fun _ _ _ => rfl, fun _ _ _ _ _ => rfl, fun _ _ _ => rfl⟩

theorem Transparent.withRange {f : State → State} (hf : Transparent f) (i : Instr) (count : Nat) (s done : State) :
    withRange i count (f s) (f done) = mapNext f (withRange i count s done) := by
  unfold Machine.withRange
  rw [hf.index]
  split
  · rw [faultOn, hf.raise]; rfl
  · rfl

theorem Transparent.exec_of_withRange {f : State → State} (hf : Transparent f) {i : Instr} {count : Nat} {s : State}
    (h : ∀ s, exec i s = Machine.withRange i count s (completion i s)) (hdone : completion i (f s) = f (completion i s)) :
    exec i (f s) = mapNext f (exec i s) := by
  rw [h, h, hdone, hf.withRange]

theorem Transparent.pushAndJump {f : State → State} (hf : Transparent f) (i : Instr) (ret target : Word) (s : State) :
    pushAndJump i ret target (f s) = mapNext f (pushAndJump i ret target s) := by
  simp only [Machine.pushAndJump, faultOn, hf.depth, hf.raise, hf.push]
  split
  · rfl
  · split <;> rfl

theorem Transparent.popAndJump {f : State → State} (hf : Transparent f) (i : Instr) (s : State) :
    popAndJump i (f s) = mapNext f (popAndJump i s) := by
  simp only [Machine.popAndJump, faultOn, hf.depth, hf.raise, hf.pop]
  split
  · rfl
  · split <;> rfl

theorem exec_setKeys {i : Instr} (h : ∀ x, i ≠ .skp x ∧ i ≠ .sknp x ∧ i ≠ .ldVxK x) (s : State) (k : Word) :
    exec i (s.setKeys k) = mapNext (·.setKeys k) (exec i s) := by
  cases i with
  | skp x => exact absurd rfl (h x).1
  | sknp x => exact absurd rfl (h x).2.1
  | ldVxK x => exact absurd rfl (h x).2.2
  | ret => exact (transparent_setKeys k).popAndJump _ s
  | call nnn => exact (transparent_setKeys k).pushAndJump _ _ _ s
  | drw x y n => exact (transparent_setKeys k).exec_of_withRange (exec_drw x y n) rfl
  | ldB x => exact (transparent_setKeys k).exec_of_withRange (exec_ldB x) rfl
  | storeRegs x => exact (transparent_setKeys k).exec_of_withRange (exec_storeRegs x) rfl
  | loadRegs x => exact (transparent_setKeys k).exec_of_withRange (exec_loadRegs x) rfl
  | _ => rfl

/-- With another `ST` and `DIRTY` an instruction answers the same state but for these two. -/
theorem exec_setSt_setDirty {i : Instr} {s t : State} (b : Byte) (d : Bool) (h : exec i s = .next t) :
    ∃ b' d', exec i ((s.setSt b).setDirty d) = .next ((t.setSt b').setDirty d') := by
  have hf := transparent_setSt_setDirty b d
  cases i with
  | cls => cases h; exact ⟨b, true, rfl⟩
  | ldStVx x => cases h; exact ⟨s.reg x, d, rfl⟩
  | ldVxK x =>
    rw [exec_ldVxK] at h ⊢
    cases h; exact ⟨b, d, rfl⟩
  | drw x y n =>
    rcases withRange_cases h with ⟨hin, rfl⟩ | ⟨hout, rfl⟩
    · exact ⟨b, dirtyAfterDraw n ((s.setSt b).setDirty d), if_neg (by simpa using hin)⟩
    · exact ⟨b, d, if_pos hout⟩
  | ret => exact ⟨b, d, (hf.popAndJump _ s).trans (congrArg (mapNext _) h)⟩
  | call nnn => exact ⟨b, d, (hf.pushAndJump _ _ _ s).trans (congrArg (mapNext _) h)⟩
  | ldB x => exact ⟨b, d, (hf.exec_of_withRange (exec_ldB x) rfl).trans (congrArg (mapNext _) h)⟩
  | storeRegs x => exact ⟨b, d, (hf.exec_of_withRange (exec_storeRegs x) rfl).trans (congrArg (mapNext _) h)⟩
  | loadRegs x => exact ⟨b, d, (hf.exec_of_withRange (exec_loadRegs x) (by cases s; rfl)).trans (congrArg (mapNext _) h)⟩
  | _ => cases h; exact ⟨b, d, rfl⟩

theorem unchanged_setSt_setDirty (s : State) (b : Byte) (d : Bool) :
    Unchanged (fun p => p = .sound ∨ p = .dirty) s ((s.setSt b).setDirty d) :=
  ((unchanged_setSt s b).mono fun _ => .inl).trans ((unchanged_setDirty _ d).mono fun _ => .inr)

end Sys2Proof.Machine

namespace Sys2Proof

open Sys2Proof.Machine

/-- Settles O58: no check and no completion but those of the three key instructions looks at the snapshot. -/
theorem keysReadOnlyByKeyInstructions : Obligations.KeysReadOnlyByKeyInstructions :=
  fun _ s k h => exec_setKeys h s k

/-- Settles O59: the two fields end as they were set or as CLS, DRW and LD ST, Vx write them, and nothing else differs. -/
theorem soundAndDirtyAreNotRead : Obligations.SoundAndDirtyAreNotRead := by
  intro i s t b d h
  obtain ⟨b', d', hu⟩ := exec_setSt_setDirty b d h
  exact ⟨_, hu, unchanged_setSt_setDirty t b' d'⟩

end Sys2Proof
end

section
/-! PROOFS. The jump to a sum and the return stack (spec/40_control_flow.md R102, R104, R109; spec/10_state.md R28): the frames
of a call and of a return, then the statements. -/

namespace Sys2Proof.Machine

theorem exec_jpV0 (nnn : Addr12) (s : State) :
    exec (.jpV0 nnn) s = .next (s.setPc (zextAddr nnn + zextByte (s.reg 0))) := rfl

theorem unchanged_completion_call (nnn : Addr12) (s : State) :
    Unchanged (fun p => p = .pc ∨ p = .depth ∨ p = .slot (Fin.ofNat 16 s.sp.toNat)) s (completion (.call nnn) s) :=
  (((unchanged_setSlot s _ _).mono fun _ hslot => .inr (.inr hslot)).trans
    ((unchanged_setSp _ _).mono fun _ hdepth => .inr (.inl hdepth))).trans
    ((unchanged_setPc _ _).mono fun _ => .inl)

theorem unchanged_completion_ret (s : State) :
    Unchanged (fun p => p = .pc ∨ p = .depth) s (completion .ret s) :=
  ((unchanged_setSp s _).mono fun _ => .inr).trans ((unchanged_setPc _ _).mono fun _ => .inl)

theorem slot_ofNat {n : Nat} {k : Fin 16} (h : k.val = n) : Fin.ofNat 16 n = k :=
  Fin.ext (by rw [Fin.val_ofNat, ← h]; exact Nat.mod_eq_of_lt k.isLt)

end Sys2Proof.Machine

namespace Sys2Proof

open Sys2Proof.Machine

/-- Settles O12 (R109): the sum of a 12-bit address and a byte fits in 16 bits. -/
theorem jumpAddsRegisterZero : Obligations.JumpAddsRegisterZero :=
  fun nnn s => ⟨_, exec_jpV0 nnn s, zextAddr_add_zextByte_toNat nnn _, unchanged_setPc s _⟩

/-- Settles O13 (R104): the call completes below depth 16 and faults at it. -/
theorem callPushesAndJumps : Obligations.CallPushesAndJumps := by
  refine ⟨fun nnn s h => ⟨_, exec_call_of_lt nnn h, fun k hk => ?_, sp_succ_toNat h, zextAddr_toNat nnn, ?_⟩,
    fun nnn s h => ?_⟩
  · show (s.setSlot _ _).slot k = _
    rw [State.setSlot_slot, if_pos (slot_ofNat hk).symm]
  · refine (unchanged_completion_call nnn s).mono ?_
    rintro p (hpc | hdepth | hslot)
    · exact .inl hpc
    · exact .inr (.inl hdepth)
    · exact .inr (.inr ⟨_, Nat.mod_eq_of_lt h, hslot⟩)
  · rw [exec_call, pushAndJump_of_full (BitVec.eq_of_toNat_eq h)]
    exact faultsWith_faultOn _ _ s

/-- Settles O14 (R102): the return completes at a depth of 1 to 16 and faults on an empty stack. -/
theorem returnPopsIntoProgramCounter : Obligations.ReturnPopsIntoProgramCounter := by
  refine ⟨fun s h0 h => ?_, fun s h => ?_⟩
  · have hpred := sp_pred_toNat (sp_ne_zero h0)
    refine ⟨_, exec_ret_of_pos h0 h, ?_, fun k hk => ?_, unchanged_completion_ret s⟩
    · show (s.sp - 1#5).toNat + 1 = s.sp.toNat
      omega
    · exact congrArg s.slot (slot_ofNat (by omega))
  · rw [exec_ret, popAndJump_of_empty (BitVec.eq_of_toNat_eq h)]
    exact faultsWith_faultOn _ _ s

/-- Settles O15 by what a call and a return do: the return pops the slot the call filled, from the depth the call left. -/
theorem returnUndoesCall : Obligations.ReturnUndoesCall := by
  intro nnn s t hsp hcall
  obtain ⟨t', ht', hslot, hdepth, -, hframe⟩ := callPushesAndJumps.1 nnn s hsp
  obtain rfl : t = t' := Host.Outcome.next.inj (hcall.symm.trans ht')
  obtain ⟨u, hu, hdepth', hpc, hframe'⟩ := returnPopsIntoProgramCounter.1 t (by omega) (by omega)
  refine ⟨u, hu, ?_, fun p hp => ?_⟩
  · rw [hpc ⟨s.sp.toNat, hsp⟩ hdepth.symm, hslot _ rfl]
  · by_cases hd : p = .depth
    · rw [hd]
      exact BitVec.eq_of_toNat_eq (by omega)
    · refine (hframe.trans (hframe'.mono ?_)) p ?_
      · rintro q (hq | hq)
        · exact .inl hq
        · exact .inr (.inl hq)
      · rintro (hq | hq | hq)
        · exact hp (.inl hq)
        · exact hd hq
        · exact hp (.inr hq)

/-- Settles O16 (log 8): the push and the pop stop by name above depth 16. -/
theorem depthAboveSixteenStops : Obligations.DepthAboveSixteenStops :=
  fun _ _ h => ⟨pushAndJump_of_gt h, popAndJump_of_gt h⟩

end Sys2Proof
end

section
/-! PROOFS. The register instructions with a flag, the logic instructions, the random byte and the sums in the index register
(spec/41_register_alu.md R124 to R133, spec/42_index_memory.md R142, R143). -/

namespace Sys2Proof.Machine

/-! ### The next state of each instruction -/

theorem exec_addReg (x y : Reg) (s : State) : exec (.addReg x y) s =
    .next (s.setRegAndFlag x (s.reg x + s.reg y) (carryFlag (s.reg x) (s.reg y))).advance := rfl

theorem exec_subReg (x y : Reg) (s : State) : exec (.subReg x y) s =
    .next (s.setRegAndFlag x (s.reg x - s.reg y) (noBorrowFlag (s.reg x) (s.reg y))).advance := rfl

theorem exec_subnReg (x y : Reg) (s : State) : exec (.subnReg x y) s =
    .next (s.setRegAndFlag x (s.reg y - s.reg x) (noBorrowFlag (s.reg y) (s.reg x))).advance := rfl

theorem exec_shrReg (x y : Reg) (s : State) : exec (.shrReg x y) s =
    .next (s.setRegAndFlag x (s.reg y >>> 1) (shiftOutRight (s.reg y))).advance := rfl

theorem exec_shlReg (x y : Reg) (s : State) : exec (.shlReg x y) s =
    .next (s.setRegAndFlag x (s.reg y <<< 1) (shiftOutLeft (s.reg y))).advance := rfl

theorem exec_orReg (x y : Reg) (s : State) :
    exec (.orReg x y) s = .next (s.setReg x (s.reg x ||| s.reg y)).advance := rfl

theorem exec_andReg (x y : Reg) (s : State) :
    exec (.andReg x y) s = .next (s.setReg x (s.reg x &&& s.reg y)).advance := rfl

theorem exec_xorReg (x y : Reg) (s : State) :
    exec (.xorReg x y) s = .next (s.setReg x (s.reg x ^^^ s.reg y)).advance := rfl

theorem exec_rnd (x : Reg) (nn : Byte) (s : State) :
    exec (.rnd x nn) s = .next (rndWith (Config.draw s.draws) x nn s) := rfl

theorem exec_addI (x : Reg) (s : State) : exec (.addI x) s = .next (s.setI (s.i + zextByte (s.reg x))).advance := rfl

theorem exec_ldF (x : Reg) (s : State) : exec (.ldF x) s = .next (s.setI (fontAddr (s.reg x))).advance := rfl

/-! ### A result and a flag written, `PC` moved on -/

theorem unchanged_setRegAndFlag_advance (s : State) (x : Reg) (b : Byte) (c : Bool) :
    Unchanged (fun p => p = .reg x ∨ p = .reg 0xF ∨ p = .pc) s (s.setRegAndFlag x b c).advance :=
  (((unchanged_setReg s x b).mono fun _ => .inl).trans
    ((unchanged_setReg _ flagReg _).mono fun _ hflag => .inr (.inl hflag))).trans
    ((unchanged_advance _).mono fun _ hpc => .inr (.inr hpc))

/-- An instruction that writes a result and then a flag and moves on (R101, R133). -/
theorem writesFlag_of_setRegAndFlag_advance {i : Instr} {x : Reg} {b : Byte} {c : Bool} {s : State}
    (h : exec i s = .next (s.setRegAndFlag x b c).advance) :
    ∃ t, exec i s = .next t ∧ (x ≠ 0xF → t.reg x = b) ∧ t.reg 0xF = flagByte c ∧ t.pc = s.pc + 2#16 ∧
      Unchanged (fun p => p = .reg x ∨ p = .reg 0xF ∨ p = .pc) s t := by
  refine ⟨_, h, fun hx => ?_, ?_, rfl, unchanged_setRegAndFlag_advance s x b c⟩
  · rw [State.advance_reg, State.setRegAndFlag, State.setReg_reg, if_neg (show x ≠ flagReg from hx), State.setReg_reg,
      if_pos rfl]
  · rw [State.advance_reg, State.setRegAndFlag, State.setReg_reg]
    exact if_pos rfl

theorem flagByte_toNat (c : Bool) : (flagByte c).toNat = if c then 1 else 0 := by cases c <;> rfl

theorem carryFlag_toNat (a b : Byte) : (flagByte (carryFlag a b)).toNat = if a.toNat + b.toNat > 255 then 1 else 0 := by
  simp only [flagByte_toNat, carryFlag, decide_eq_true_eq]

theorem noBorrowFlag_toNat (a b : Byte) :
    (flagByte (noBorrowFlag a b)).toNat = if a.toNat ≥ b.toNat then 1 else 0 := by
  simp only [flagByte_toNat, noBorrowFlag, decide_eq_true_eq]

theorem shiftOutRight_toNat (b : Byte) : (flagByte (shiftOutRight b)).toNat = b.toNat % 2 := by
  rw [flagByte_toNat, shiftOutRight, BitVec.getLsbD, Nat.testBit_eq_decide_div_mod_eq]
  simp only [decide_eq_true_eq]
  split <;> omega

theorem shiftOutLeft_toNat (b : Byte) : (flagByte (shiftOutLeft b)).toNat = b.toNat / 128 := by
  rw [flagByte_toNat, shiftOutLeft, BitVec.getLsbD, Nat.testBit_eq_decide_div_mod_eq]
  simp only [decide_eq_true_eq]
  split <;> omega

theorem byte_sub_toNat (a b : Byte) : (a - b).toNat = (a.toNat + 256 - b.toNat) % 256 := by
  rw [BitVec.toNat_sub]; omega

theorem byte_shiftRight_toNat (b : Byte) : (b >>> 1).toNat = b.toNat / 2 := by
  rw [BitVec.toNat_ushiftRight, Nat.shiftRight_eq_div_pow]

theorem byte_shiftLeft_toNat (b : Byte) : (b <<< 1).toNat = b.toNat * 2 % 256 := by
  rw [BitVec.toNat_shiftLeft, Nat.shiftLeft_eq]

theorem fontAddr_toNat (b : Byte) : (fontAddr b).toNat = 5 * b.toNat := by
  rw [fontAddr, BitVec.toNat_ofNat, Config.fontBase, Config.fontGlyphBytes]; omega

/-- An instruction that writes one register and moves on, the register stated bit by bit. -/
theorem writesBits_of_setReg_advance {i : Instr} {x : Reg} {b : Byte} {s : State} {bit : Nat → Bool}
    (h : exec i s = .next (s.setReg x b).advance) (hbit : ∀ j < 8, b.getLsbD j = bit j) :
    ∃ t, exec i s = .next t ∧ (∀ j < 8, (t.reg x).getLsbD j = bit j) ∧ t.pc = s.pc + 2#16 ∧
      Unchanged (fun p => p = .reg x ∨ p = .pc) s t := by
  obtain ⟨t, ht, hx, hpc, hframe⟩ := writesRegister_of_setReg_advance h
  exact ⟨t, ht, hx ▸ hbit, hpc, hframe⟩

theorem unchanged_rndWith (r : Byte) (x : Reg) (nn : Byte) (s : State) :
    Unchanged (fun p => p = .reg x ∨ p = .pc ∨ p = .draws) s (rndWith r x nn s) :=
  (((unchanged_setReg s x _).mono fun _ => .inl).trans
    ((unchanged_countDraw _).mono fun _ hdraws => .inr (.inr hdraws))).trans
    ((unchanged_advance _).mono fun _ hpc => .inr (.inl hpc))

theorem rndWith_reg (r : Byte) (x : Reg) (nn : Byte) (s : State) : (rndWith r x nn s).reg x = r &&& nn := by
  rw [rndWith, State.advance_reg, State.countDraw_reg, State.setReg_reg, if_pos rfl]

end Sys2Proof.Machine

namespace Sys2Proof

open Sys2Proof.Machine

/-- Settles O21 (R124 to R126): each writes `Vx` alone, and the operation is bit by bit. -/
theorem logicOperationsBitwise : Obligations.LogicOperationsBitwise := fun x y s =>
  ⟨writesBits_of_setReg_advance (exec_orReg x y s) fun _ _ => BitVec.getLsbD_or,
    writesBits_of_setReg_advance (exec_andReg x y s) fun _ _ => BitVec.getLsbD_and,
    writesBits_of_setReg_advance (exec_xorReg x y s) fun _ _ => BitVec.getLsbD_xor⟩

/-- Settles O22 (R127): the word is format `XY` with low nibble 4, and a sum of bytes is modulo 256. -/
theorem addRegisterSetsCarry : Obligations.AddRegisterSetsCarry := by
  intro x y s
  obtain ⟨t, ht, hx, hflag, hpc, hframe⟩ := writesFlag_of_setRegAndFlag_advance (exec_addReg x y s)
  refine ⟨packXYN_toNat_of_fixed x y rfl, t, ht, fun hne => ?_, ?_, hpc, hframe⟩
  · rw [hx hne]; exact BitVec.toNat_add _ _
  · rw [hflag, carryFlag_toNat]

/-- Settles O23 (R128): the word is format `XY` with low nibble 5, and a difference of bytes is modulo 256. -/
theorem subtractSetsNoBorrow : Obligations.SubtractSetsNoBorrow := by
  intro x y s
  obtain ⟨t, ht, hx, hflag, hpc, hframe⟩ := writesFlag_of_setRegAndFlag_advance (exec_subReg x y s)
  refine ⟨packXYN_toNat_of_fixed x y rfl, t, ht, fun hne => ?_, ?_, hpc, hframe⟩
  · rw [hx hne, byte_sub_toNat]
  · rw [hflag, noBorrowFlag_toNat]

/-- Settles O24 (R130): SUB with the operands exchanged. -/
theorem subtractReversedSetsNoBorrow : Obligations.SubtractReversedSetsNoBorrow := by
  intro x y s
  obtain ⟨t, ht, hx, hflag, hpc, hframe⟩ := writesFlag_of_setRegAndFlag_advance (exec_subnReg x y s)
  refine ⟨t, ht, fun hne => ?_, ?_, hpc, hframe⟩
  · rw [hx hne, byte_sub_toNat]
  · rw [hflag, noBorrowFlag_toNat]

/-- Settles O25 (R129, R131): the bit moved out is the lowest or the highest of `Vy`. -/
theorem shiftsMoveOneBit : Obligations.ShiftsMoveOneBit := by
  intro x y s
  constructor
  · obtain ⟨t, ht, hx, hflag, hpc, hframe⟩ := writesFlag_of_setRegAndFlag_advance (exec_shrReg x y s)
    refine ⟨t, ht, fun hne => ?_, ?_, hpc, hframe⟩
    · rw [hx hne, byte_shiftRight_toNat]
    · rw [hflag, shiftOutRight_toNat]
  · obtain ⟨t, ht, hx, hflag, hpc, hframe⟩ := writesFlag_of_setRegAndFlag_advance (exec_shlReg x y s)
    refine ⟨t, ht, fun hne => ?_, ?_, hpc, hframe⟩
    · rw [hx hne, byte_shiftLeft_toNat]
    · rw [hflag, shiftOutLeft_toNat]

/-- Settles O26 (R132): RND is `rndWith` at the next draw, and `rndWith` masks whatever draw it is given. -/
theorem randomByteIsMasked : Obligations.RandomByteIsMasked := by
  refine fun x nn s => ⟨⟨_, exec_rnd x nn s, rfl⟩, fun r => ⟨fun j _ => ?_, rfl, rfl, unchanged_rndWith r x nn s⟩⟩
  rw [rndWith_reg, BitVec.getLsbD_and]

/-- Settles O28 (R142): a sum of words is modulo 65536. -/
theorem addToIndexWraps : Obligations.AddToIndexWraps := by
  intro x s
  obtain ⟨t, ht, hi, hpc, hframe⟩ := writesIndex_of_setI_advance (exec_addI x s)
  refine ⟨t, ht, ?_, hpc, hframe⟩
  rw [hi, BitVec.toNat_add, zextByte_toNat]

/-- Settles O29 (R143): five times a byte fits in 16 bits. -/
theorem fontGlyphAddress : Obligations.FontGlyphAddress := by
  intro x s
  obtain ⟨t, ht, hi, hpc, hframe⟩ := writesIndex_of_setI_advance (exec_ldF x s)
  refine ⟨t, ht, ?_, hpc, hframe⟩
  rw [hi, fontAddr_toNat]

end Sys2Proof
end

section
/-! PROOFS. The memory instructions (spec/42_index_memory.md R140, R144 to R146; spec/20_memory.md R53, R60): a block stored from
`I` up, the registers loaded from there, the range faults. -/

namespace Sys2Proof.Machine

open Sys2Proof.Claims

/-! ### In range -/

theorem exec_ldB_of_in {x : Reg} {s : State} (h : s.i.toNat + 2 ≤ 0xFFF) :
    exec (.ldB x) s = .next (s.setMem (s.mem.writeBlock (dataAddr s 0) (bcdDigits (s.reg x)))).advance :=
  withRange_of_in (by omega)

theorem exec_storeRegs_of_in {x : Reg} {s : State} (h : s.i.toNat + x.val ≤ 0xFFF) :
    exec (.storeRegs x) s = .next (s.setMem (s.mem.writeBlock (dataAddr s 0) (regBlock x s))).advance :=
  withRange_of_in (by rw [blockCount]; omega)

theorem exec_loadRegs_of_in {x : Reg} {s : State} (h : s.i.toNat + x.val ≤ 0xFFF) :
    exec (.loadRegs x) s = .next (s.setRegs (loadedRegs x s)).advance :=
  withRange_of_in (by rw [blockCount]; omega)

/-! ### A block stored, `PC` moved on -/

theorem unchanged_writeBlock_advance (s : State) {bs : List Byte} {last : Nat} (hlen : bs.length = last + 1) :
    Unchanged (fun p => p = .pc ∨ ∃ a, dataAddr s 0 ≤ a ∧ a ≤ dataAddr s last ∧ p = .byte a) s
      (s.setMem (s.mem.writeBlock (dataAddr s 0) bs)).advance := by
  refine ((unchanged_setMem s _).mono ?_).trans ((unchanged_advance _).mono fun _ => .inl)
  rintro p ⟨a, hne, rfl⟩
  have hin : ¬ (a < dataAddr s 0 ∨ dataAddr s 0 + bs.length ≤ a) := fun hout =>
    hne (Memory.read_writeBlock_of_not_mem _ _ hout)
  rw [hlen] at hin
  unfold dataAddr at *
  exact .inr ⟨a, by omega, by omega, rfl⟩

/-- An instruction that stores a block of bytes from `I` up and moves on (R101, R140). -/
theorem storesBlock_of_writeBlock_advance {i : Instr} {bs : List Byte} {last : Nat} {s : State} (hmem : s.mem.wf = true)
    (hin : s.i.toNat + last ≤ 0xFFF) (hlen : bs.length = last + 1)
    (h : exec i s = .next (s.setMem (s.mem.writeBlock (dataAddr s 0) bs)).advance) :
    ∃ t, exec i s = .next t ∧ (∀ k (hk : k < bs.length), t.mem.read (s.i.toNat + k) = bs[k]) ∧ t.pc = s.pc + 2#16 ∧
      Unchanged (fun p => p = .pc ∨ ∃ a, dataAddr s 0 ≤ a ∧ a ≤ dataAddr s last ∧ p = .byte a) s t := by
  refine ⟨_, h, fun k hk => ?_, rfl, unchanged_writeBlock_advance s hlen⟩
  exact Memory.read_writeBlock hmem (by rw [hlen, dataAddr, Config.memSize]; omega) hk

theorem regBlock_getElem (x : Reg) (s : State) (k : Reg) (hk : k.val < (regBlock x s).length) :
    (regBlock x s)[k.val] = s.reg k := by
  simp only [regBlock, List.getElem_take, Vector.getElem_toList]
  rfl

theorem loadedRegs_of_le {x k : Reg} (s : State) (hk : k ≤ x) :
    (loadedRegs x s)[k.val]'k.isLt = s.mem.read (s.i.toNat + k.val) := by
  rw [loadedRegs, Vector.getElem_ofFn]
  exact if_pos hk

theorem unchanged_loadedRegs_advance (x : Reg) (s : State) :
    Unchanged (fun p => p = .pc ∨ ∃ k : Reg, k ≤ x ∧ p = .reg k) s (s.setRegs (loadedRegs x s)).advance := by
  refine ((unchanged_setRegs s _).mono ?_).trans ((unchanged_advance _).mono fun _ => .inl)
  rintro p ⟨k, hne, rfl⟩
  exact .inr ⟨k, loadedRegs_writers hne, rfl⟩

/-! ### Out of range -/

theorem faultsWith_of_withRange {i : Instr} {count : Nat} {s done : State} (h : exec i s = withRange i count s done)
    (hout : 0 < count ∧ s.i.toNat + count - 1 > 0xFFF) : FaultsWith .outOfBoundsAccess i s (exec i s) := by
  rw [h, withRange_of_out hout]
  exact faultsWith_faultOn _ i s

theorem faultsWith_of_dataFault {i : Instr} {s : State} (h : dataFault i s) :
    FaultsWith .outOfBoundsAccess i s (exec i s) := by
  cases i with
  | drw x y n => exact faultsWith_of_withRange (exec_drw x y n s) ((dataFault_drw x y n s).mp h)
  | ldB x => exact faultsWith_of_withRange (exec_ldB x s) ((dataFault_ldB x s).mp h)
  | storeRegs x => exact faultsWith_of_withRange (exec_storeRegs x s) ((dataFault_storeRegs x s).mp h)
  | loadRegs x => exact faultsWith_of_withRange (exec_loadRegs x s) ((dataFault_loadRegs x s).mp h)
  | _ => simp [dataFault] at h

end Sys2Proof.Machine

namespace Sys2Proof

open Sys2Proof.Machine

/-- Settles O30 (R144): the block is the three digits, hundreds first. -/
theorem bcdStoresDigits : Obligations.BcdStoresDigits := by
  intro x s hmem hin
  obtain ⟨t, ht, hread, hpc, hframe⟩ :=
    storesBlock_of_writeBlock_advance hmem hin (bcdDigits_length _) (exec_ldB_of_in (x := x) hin)
  refine ⟨t, ht, ?_, ?_, ?_, hpc, hframe⟩
  · rw [show t.mem.read s.i.toNat = s.reg x / 100#8 from hread 0 (show 0 < 3 by decide)]; exact BitVec.toNat_udiv
  · rw [show t.mem.read (s.i.toNat + 1) = (s.reg x / 10#8) % 10#8 from hread 1 (show 1 < 3 by decide), BitVec.toNat_umod,
      BitVec.toNat_udiv]
    rfl
  · rw [show t.mem.read (s.i.toNat + 2) = s.reg x % 10#8 from hread 2 (show 2 < 3 by decide)]; exact BitVec.toNat_umod

/-- Settles O31 (R145): the block is `V0` to `Vx`. -/
theorem storeRegistersBlock : Obligations.StoreRegistersBlock := by
  intro x s hmem hin
  obtain ⟨t, ht, hread, hpc, hframe⟩ :=
    storesBlock_of_writeBlock_advance hmem hin (regBlock_length x s) (exec_storeRegs_of_in hin)
  refine ⟨t, ht, fun k hk => ?_, hpc, hframe⟩
  have hlt : k.val < (regBlock x s).length := by
    rw [regBlock_length, blockCount]; exact Nat.lt_succ_of_le hk
  rw [hread k.val hlt, regBlock_getElem]

/-- Settles O32 (R146). -/
theorem loadRegistersBlock : Obligations.LoadRegistersBlock := by
  intro x s hin
  refine ⟨_, exec_loadRegs_of_in hin, fun k hk => ?_, ?_, unchanged_loadedRegs_advance x s⟩
  · rw [State.advance_reg, State.setRegs_reg, loadedRegs_of_le s hk]
  · rw [State.advance_pc, State.setRegs_pc]

/-- Settles O33 (R53, R204): a range that leaves MEM faults before anything else, and a completion leaves HALT alone. -/
theorem dataRangeFaults : Obligations.DataRangeFaults := by
  refine ⟨fun i s => faultsWith_of_dataFault, fun i s t hrun h hhalt hkind => ?_⟩
  rcases exec_next_cases h with ⟨-, rfl⟩ | ⟨kind, hcause, rfl⟩
  · rw [completion_halt, hrun] at hhalt; cases hhalt
  · obtain rfl : kind = .outOfBoundsAccess := hkind
    exact hcause

/-- Settles O34 (R60): the fetch reads the two stored bytes that LD [I], Vx left there. -/
theorem storedWordIsFetched : Obligations.StoredWordIsFetched := by
  intro x k l s t hmem hin hlx hkl h
  obtain ⟨t', ht', hread, -, -⟩ := storeRegistersBlock x s hmem hin
  obtain rfl : t = t' := Host.Outcome.next.inj (h.symm.trans ht')
  have hlx' : l.val ≤ x.val := hlx
  have hkx : k ≤ x := show k.val ≤ x.val by omega
  refine ⟨_, t.mem.fetch16_of_le (by omega), ?_⟩
  rw [wordOfBytes_toNat, hread k hkx, Nat.add_assoc, ← hkl, hread l hlx]

end Sys2Proof
end

section
/-! PROOFS. The sprite instruction and the frame read-out (spec/43_display.md R162 to R166): the statements' pixels of a sprite
are the dots of Laws/Display.lean. -/

namespace Sys2Proof.Machine

open Sys2Proof.Claims

theorem spriteBit_iff (b : Byte) (c : Nat) : spriteBit b c = true ↔ b.toNat / 2 ^ (7 - c) % 2 = 1 := by
  rw [spriteBit, BitVec.getLsbD, Nat.testBit_eq_decide_div_mod_eq, decide_eq_true_eq]

theorem wrapRow_eq_iff (y0 r : Nat) (y : Fin 32) : wrapRow y0 r = y ↔ (y0 + r) % 32 = y.val := Fin.ext_iff

theorem wrapColumn_eq_iff (x0 c : Nat) (x : Fin 64) : wrapColumn x0 c = x ↔ (x0 + c) % 64 = x.val := Fin.ext_iff

theorem spritePixel_iff_dotAt (x y : Reg) (n : BitVec 4) (s : State) (py : Fin 32) (px : Fin 64) :
    spritePixel x y n s py px ↔
      dotAt s.mem (dataAddr s 0) ((s.reg x).toNat % 64) ((s.reg y).toNat % 32) n.toNat py px := by
  simp only [spritePixel, dotAt, Prod.exists, mem_spriteDots, spriteBit_iff, wrapRow_eq_iff, wrapColumn_eq_iff, dataAddr,
    Nat.add_zero]
  refine exists_congr fun r => exists_congr fun c => ?_
  tauto

theorem height_le (n : BitVec 4) : n.toNat ≤ 32 := by omega

theorem drawn_pixel_of_sprite {x y : Reg} {n : BitVec 4} {s : State} {py : Fin 32} {px : Fin 64}
    (h : spritePixel x y n s py px) : Screen.pixel (drawn x y n s).1 py px = !s.pixel py px := by
  rw [spritePixel_iff_dotAt] at h
  rw [drawn, drawSprite_pixel _ _ _ _ (height_le n), decide_eq_true h, Bool.xor_true]
  rfl

theorem drawn_pixel_of_not_sprite {x y : Reg} {n : BitVec 4} {s : State} {py : Fin 32} {px : Fin 64}
    (h : ¬ spritePixel x y n s py px) : Screen.pixel (drawn x y n s).1 py px = s.pixel py px := by
  rw [spritePixel_iff_dotAt] at h
  rw [drawn, drawSprite_pixel _ _ _ _ (height_le n), decide_eq_false h, Bool.xor_false]
  rfl

theorem drawn_collides_iff (x y : Reg) (n : BitVec 4) (s : State) :
    (drawn x y n s).2 = true ↔ ∃ py px, spritePixel x y n s py px ∧ s.pixel py px = true := by
  simp only [spritePixel_iff_dotAt]
  exact drawSprite_collides _ _ _ _ (height_le n) _

theorem exec_drw_of_in {x y : Reg} {n : BitVec 4} {s : State} (h : n.toNat = 0 ∨ s.i.toNat + n.toNat - 1 ≤ 0xFFF) :
    exec (.drw x y n) s = .next (completion (.drw x y n) s) :=
  withRange_of_in (by omega)

theorem completion_drw_flag (x y : Reg) (n : BitVec 4) (s : State) :
    (completion (.drw x y n) s).reg 0xF = flagByte (drawn x y n s).2 := by
  rw [completion, State.advance_reg, State.setDirty_reg, State.setReg_reg]
  exact if_pos rfl

theorem unchanged_completion_drw (x y : Reg) (n : BitVec 4) (s : State) :
    Unchanged (fun p => p = .reg 0xF ∨ p = .dirty ∨ p = .pc ∨ ∃ py px, p = .pixel py px) s
      (completion (.drw x y n) s) :=
  ((((unchanged_setFb s _).mono fun _ hscreen => .inr (.inr (.inr hscreen))).trans
    ((unchanged_setReg _ flagReg _).mono fun _ => .inl)).trans
    ((unchanged_setDirty _ _).mono fun _ hdirty => .inr (.inl hdirty))).trans
    ((unchanged_advance _).mono fun _ hpc => .inr (.inr (.inl hpc)))

/-- The sprite depends on its coordinates, on `I` and on what memory reads. -/
theorem spritePixel_congr {x y : Reg} {n : BitVec 4} {s t : State} (hx : t.reg x = s.reg x) (hy : t.reg y = s.reg y)
    (hi : t.i = s.i) (hmem : ∀ a, t.mem.read a = s.mem.read a) (py : Fin 32) (px : Fin 64) :
    spritePixel x y n t py px ↔ spritePixel x y n s py px := by
  simp only [spritePixel, hx, hy, hi, hmem]

end Sys2Proof.Machine

namespace Sys2Proof

open Sys2Proof.Machine Sys2Proof.Claims

/-- Settles O36 (R162 to R164): the loop's dots are the sprite's pixels, each drawn once. -/
theorem drawFlipsSpritePixels : Obligations.DrawFlipsSpritePixels := by
  intro x y n s hin
  refine ⟨_, exec_drw_of_in hin, fun _ _ => drawn_pixel_of_sprite, fun _ _ => drawn_pixel_of_not_sprite,
    fun hcoll => ?_, fun hno => ?_, ?_, rfl, unchanged_completion_drw x y n s⟩
  · rw [completion_drw_flag, (drawn_collides_iff x y n s).mpr hcoll]; rfl
  · rw [completion_drw_flag, Bool.eq_false_iff.mpr (mt (drawn_collides_iff x y n s).mp hno)]; rfl
  · show (s.dirty || decide (0 < n.toNat)) = _
    simp only [Nat.pos_iff_ne_zero]

/-- Settles O37: the first draw leaves the coordinates, `I` and memory, so the second draws the same sprite. -/
theorem drawTwiceRestoresScreen : Obligations.DrawTwiceRestoresScreen := by
  intro x y n s t hx hy hin h
  obtain ⟨t', ht', hon, hoff, -, hclear, -, -, hframe⟩ := drawFlipsSpritePixels x y n s hin
  obtain rfl : t = t' := Host.Outcome.next.inj (h.symm.trans ht')
  have hi : t.i = s.i := hframe .index (by simp)
  have hsprite : ∀ py px, spritePixel x y n t py px ↔ spritePixel x y n s py px :=
    spritePixel_congr (hframe (.reg x) (by simpa using hx)) (hframe (.reg y) (by simpa using hy)) hi
      fun a => hframe (.byte a) (by simp)
  obtain ⟨u, hu, hon', hoff', hcoll', -⟩ := drawFlipsSpritePixels x y n t (by rwa [hi])
  refine ⟨u, hu, fun py px => ?_, fun hblank => ⟨hclear ?_, fun ⟨py, px, hp⟩ => hcoll' ⟨py, px, (hsprite py px).mpr hp, ?_⟩⟩⟩
  · by_cases hp : spritePixel x y n s py px
    · rw [hon' py px ((hsprite py px).mpr hp), hon py px hp, Bool.not_not]
    · rw [hoff' py px (mt (hsprite py px).mp hp), hoff py px hp]
  · rintro ⟨py, px, -, hon⟩
    rw [hblank] at hon; cases hon
  · rw [hon py px hp, hblank]; rfl

/-- Settles O38 (R166): the byte is eight columns of row `y`, from column `8 * (x / 8)`. -/
theorem frameReadOutPacksPixels : Obligations.FrameReadOutPacksPixels := by
  intro s y x k hk
  have hrow : k.val / 8 = y.val := by omega
  have hcol : 56 - 8 * (k.val % 8) + (7 - x.val % 8) = 64 - 1 - x.val := by omega
  have hbit : 7 - x.val % 8 < 8 := by omega
  simp only [State.frameByte, State.pixel, Screen.pixel, BitVec.getLsbD_extractLsb', BitVec.getMsbD_eq_getLsbD, hrow, hcol,
    hbit, x.isLt]

end Sys2Proof
end

section
/-! PROOFS. The keypad and timer instructions and the five events beside the step (spec/44_input_timers.md R181 to R189,
spec/43_display.md R165, spec/70_reset_and_hazards.md R230, R232). -/

namespace Sys2Proof.Machine

open Sys2Proof.Claims

/-! ### The next state of each instruction -/

theorem exec_skp (x : Reg) (s : State) :
    exec (.skp x) s = .next (s.skipIf (s.keys.getLsbD ((s.reg x).toNat % 16))) := rfl

theorem exec_sknp (x : Reg) (s : State) :
    exec (.sknp x) s = .next (s.skipIf (!s.keys.getLsbD ((s.reg x).toNat % 16))) := rfl

theorem exec_ldVxDt (x : Reg) (s : State) : exec (.ldVxDt x) s = .next (s.setReg x s.dt).advance := rfl

theorem exec_ldDtVx (x : Reg) (s : State) : exec (.ldDtVx x) s = .next (s.setDt (s.reg x)).advance := rfl

theorem exec_ldStVx (x : Reg) (s : State) : exec (.ldStVx x) s = .next (s.setSt (s.reg x)).advance := rfl

theorem exec_ldVxK_of_none {x : Reg} {s : State} (h : lowestKey s.keys = none) : exec (.ldVxK x) s = .next s := by
  simp only [exec, execLdVxK, h]

theorem exec_ldVxK_of_some {x : Reg} {s : State} {k : Nat} (h : lowestKey s.keys = some k) :
    exec (.ldVxK x) s = .next (s.setReg x (BitVec.ofNat 8 k)).advance := by
  simp only [exec, execLdVxK, h]

theorem unchanged_setDt_advance (s : State) (b : Byte) :
    Unchanged (fun p => p = .delay ∨ p = .pc) s (s.setDt b).advance :=
  ((unchanged_setDt s b).mono fun _ => .inl).trans ((unchanged_advance _).mono fun _ => .inr)

theorem unchanged_setSt_advance (s : State) (b : Byte) :
    Unchanged (fun p => p = .sound ∨ p = .pc) s (s.setSt b).advance :=
  ((unchanged_setSt s b).mono fun _ => .inl).trans ((unchanged_advance _).mono fun _ => .inr)

theorem soundOn_iff (s : State) : s.soundOn = true ↔ s.st.toNat ≠ 0 := by
  rw [State.soundOn, bne_iff_ne, ne_eq, ← BitVec.toNat_inj]
  rfl

/-! ### The timers under events -/

theorem countDown_toNat (b : Byte) : (countDown b).toNat = b.toNat - 1 := by
  unfold countDown
  split
  · subst b; rfl
  · have hne : b.toNat ≠ 0 := fun h0 => ‹b ≠ 0#8› (BitVec.eq_of_toNat_eq h0)
    rw [BitVec.toNat_sub, BitVec.toNat_ofNat]; omega

theorem unchanged_tick (s : State) : Unchanged (fun p => p = .delay ∨ p = .sound) s s.tick :=
  ((unchanged_setDt s _).mono fun _ => .inl).trans ((unchanged_setSt _ _).mono fun _ => .inr)

/-- What a step of a machine can do to a field that only some instructions write, and no fault: it keeps it unless it
executes one of them. -/
theorem step_keeps_of_writers {α : Type} {get : State → α} {bad : Instr → Prop} {s t : State}
    (hraise : ∀ s kind op, get (s.raise kind op) = get s)
    (hwriters : ∀ i s, get (completion i s) ≠ get s → bad i)
    (havoid : ∀ i, runs s i → ¬ bad i) (h : step s = .next t) : get t = get s := by
  cases hrun : s.halt with
  | true =>
    rw [step_of_halt hrun] at h
    cases h; rfl
  | false =>
    rcases step_cases hrun h with ⟨-, rfl⟩ | ⟨hpc, w, hw, ⟨-, rfl⟩ | ⟨i, hd, hexec⟩⟩
    · exact hraise _ _ _
    · exact hraise _ _ _
    · rw [hw, ← wordAt_eq_wordOfBytes] at hd
      by_contra hne
      have ht := completion_of_ne hraise hexec hne
      exact havoid i ⟨hrun, hpc, hd⟩ (hwriters i s (ht ▸ hne))

/-- A field that every tick counts down and that no other event but Reset and the `bad` instructions write has gone down by
the number of ticks (S8). -/
theorem runEvents_counts_down {get : State → Byte} {bad : Instr → Prop}
    (htick : ∀ s, get s.tick = countDown (get s))
    (hother : ∀ (e : Event) (s t : State), e ≠ .reset → e ≠ .tick → (e = .step → ∀ i, runs s i → ¬ bad i) →
      e.apply s = .next t → get t = get s)
    {es : List Event} {s t : State} (hreset : ∀ e ∈ es, e ≠ .reset) (hrun : runEvents es s = .next t)
    (havoid : avoids bad es s) : (get t).toNat = (get s).toNat - es.count .tick := by
  induction es generalizing s with
  | nil => cases hrun; rfl
  | cons e es ih =>
    obtain ⟨u, he, hes⟩ := runEvents_cons_next hrun
    obtain ⟨hstep, hrest⟩ := havoid
    have hcount := ih (fun e' he' => hreset e' (List.mem_cons_of_mem _ he')) hes (hrest u he)
    by_cases ht : e = .tick
    · subst ht
      cases he
      rw [hcount, htick, countDown_toNat, List.count_cons_self]; omega
    · rw [hcount, hother e s u (hreset e List.mem_cons_self) ht hstep he, List.count_cons_of_ne ht]

/-- A field that Load, SetKeys and TakeDirty leave alone, as does a fault, and that only the `bad` instructions write. -/
theorem apply_keeps_of_writers {α : Type} {get : State → α} {bad : Instr → Prop}
    (hmem : ∀ s m, get (s.setMem m) = get s) (hkeys : ∀ s k, get (s.setKeys k) = get s)
    (hdirty : ∀ s d, get (s.setDirty d) = get s) (hraise : ∀ s kind op, get (s.raise kind op) = get s)
    (hwriters : ∀ i s, get (completion i s) ≠ get s → bad i)
    (e : Event) (s t : State) (hreset : e ≠ .reset) (htick : e ≠ .tick) (havoid : e = .step → ∀ i, runs s i → ¬ bad i)
    (h : e.apply s = .next t) : get t = get s := by
  cases e with
  | reset => exact absurd rfl hreset
  | tick => exact absurd rfl htick
  | load bytes =>
    obtain ⟨-, rfl⟩ := apply_load_next h
    exact hmem s _
  | setKeys k => cases h; exact hkeys s k
  | takeDirty => cases h; exact hdirty s false
  | step => exact step_keeps_of_writers hraise hwriters (havoid rfl) h

/-- A run of Tick, SetKeys and TakeDirty events completes, and no other part is touched. -/
theorem runEvents_of_host_events {es : List Event} (h : ∀ e ∈ es, e = .tick ∨ e = .takeDirty ∨ ∃ k, e = .setKeys k)
    (s : State) : ∃ t, runEvents es s = .next t ∧ t.dt.toNat = s.dt.toNat - es.count .tick ∧
      t.st.toNat = s.st.toNat - es.count .tick ∧
      Unchanged (fun p => p = .delay ∨ p = .sound ∨ p = .keys ∨ p = .dirty) s t := by
  induction es generalizing s with
  | nil => exact ⟨s, rfl, rfl, rfl, Unchanged.refl _ s⟩
  | cons e es ih =>
    have hes := fun e' he' => h e' (List.mem_cons_of_mem _ he')
    rcases h e List.mem_cons_self with rfl | rfl | ⟨k, rfl⟩
    · obtain ⟨t, ht, hdt, hst, hframe⟩ := ih hes s.tick
      refine ⟨t, ht, ?_, ?_, ((unchanged_tick s).mono ?_).trans hframe⟩
      · rw [hdt, List.count_cons_self, show s.tick.dt = countDown s.dt from rfl, countDown_toNat]; omega
      · rw [hst, List.count_cons_self, show s.tick.st = countDown s.st from rfl, countDown_toNat]; omega
      · rintro p (hp | hp)
        · exact .inl hp
        · exact .inr (.inl hp)
    · obtain ⟨t, ht, hdt, hst, hframe⟩ := ih hes (s.setDirty false)
      refine ⟨t, ht, ?_, ?_, ((unchanged_setDirty s false).mono fun _ hp => .inr (.inr (.inr hp))).trans hframe⟩
      · rw [hdt, List.count_cons_of_ne (by decide), State.setDirty_dt]
      · rw [hst, List.count_cons_of_ne (by decide), State.setDirty_st]
    · obtain ⟨t, ht, hdt, hst, hframe⟩ := ih hes (s.setKeys k)
      refine ⟨t, ht, ?_, ?_, ((unchanged_setKeys s k).mono fun _ hp => .inr (.inr (.inl hp))).trans hframe⟩
      · rw [hdt, List.count_cons_of_ne (by simp), State.setKeys_dt]
      · rw [hst, List.count_cons_of_ne (by simp), State.setKeys_st]

end Sys2Proof.Machine

namespace Sys2Proof

open Sys2Proof.Machine

/-- Settles O39 (R181, R182): both are one skip on the key's bit, SKNP on its negation. -/
theorem keySkips : Obligations.KeySkips := by
  refine fun x s => ⟨⟨_, exec_skp x s, State.skipIf_pc_eq_add s _, unchanged_skipIf s _⟩,
    ⟨_, exec_sknp x s, ?_, unchanged_skipIf s _⟩⟩
  rw [State.skipIf_pc_eq_add]
  cases s.keys.getLsbD ((s.reg x).toNat % 16) <;> rfl

/-- Settles O40 (R183): the lowest key is none exactly when KEYS is 0, and otherwise is the byte written. -/
theorem waitForKey : Obligations.WaitForKey := by
  refine ⟨fun x s h => exec_ldVxK_of_none ((lowestKey_eq_none _).mpr h), fun x s h => ?_⟩
  obtain ⟨k, hk⟩ := Option.ne_none_iff_exists'.mp (mt (lowestKey_eq_none s.keys).mp h)
  obtain ⟨hlt, hpressed, hleast⟩ := lowestKey_eq_some hk
  obtain ⟨t, ht, hx, hpc, hframe⟩ := writesRegister_of_setReg_advance (exec_ldVxK_of_some (x := x) hk)
  have hval : (t.reg x).toNat = k := by
    rw [hx, BitVec.toNat_ofNat]; omega
  exact ⟨t, ht, by rwa [hval], by rwa [hval], hpc, hframe⟩

/-- Settles O41 (R184 to R186): the words are format `X`, and each instruction writes one register or one timer and moves on. -/
theorem timerInstructionsMoveValues : Obligations.TimerInstructionsMoveValues := by
  intro x s
  refine ⟨?_, ?_, ?_, writesRegister_of_setReg_advance (exec_ldVxDt x s),
    ⟨_, exec_ldDtVx x s, rfl, rfl, unchanged_setDt_advance s _⟩,
    ⟨_, exec_ldStVx x s, rfl, rfl, soundOn_iff _, unchanged_setSt_advance s _⟩⟩
  all_goals
    simp only [encode, packXNN_toNat, BitVec.toNat_ofNat]
    omega

/-- Settles O42 (R187): each timer is counted down on its own, whatever HALT is. -/
theorem tickCountsDown : Obligations.TickCountsDown :=
  fun s => ⟨s.tick, rfl, countDown_toNat s.dt, countDown_toNat s.st, unchanged_tick s⟩

/-- Settles O43 (S8): the two timers are two fields that ticks count down and that one instruction each writes. -/
theorem ticksReachZero : Obligations.TicksReachZero := by
  refine ⟨fun es s t hreset hrun => ⟨?_, ?_⟩, fun es s h => runEvents_of_host_events h s⟩
  · exact runEvents_counts_down (get := State.dt) (fun _ => rfl)
      (apply_keeps_of_writers (fun _ _ => rfl) (fun _ _ => rfl) (fun _ _ => rfl) (fun _ _ _ => rfl)
        fun _ _ => completion_dt_writers) hreset hrun
  · exact runEvents_counts_down (get := State.st) (fun _ => rfl)
      (apply_keeps_of_writers (fun _ _ => rfl) (fun _ _ => rfl) (fun _ _ => rfl) (fun _ _ _ => rfl)
        fun _ _ => completion_st_writers) hreset hrun

/-- Settles O44 (R165, R189): each event is one update, with that update's frame. -/
theorem hostEventsReplaceOneField : Obligations.HostEventsReplaceOneField :=
  ⟨fun k s => ⟨s.setKeys k, rfl, rfl, unchanged_setKeys s k⟩,
    fun s => ⟨s.setDirty false, rfl, rfl, rfl, unchanged_setDirty s false⟩⟩

/-- Settles O45 (R232): the image is one block from 0x200 up. -/
theorem loadCopiesImage : Obligations.LoadCopiesImage := by
  refine ⟨fun bytes s hmem hlen => ⟨_, apply_load_of_fits hlen s, fun k hk => ?_, (unchanged_setMem s _).mono ?_⟩,
    fun bytes s hlen => apply_load_of_long hlen s⟩
  · exact Memory.read_writeBlock hmem (by rw [Config.progBase, Config.memSize]; omega) hk
  · rintro p ⟨a, hne, rfl⟩
    have hin : ¬ (a < 0x200 ∨ 0x200 + bytes.length ≤ a) := fun hout =>
      hne (Memory.read_writeBlock_of_not_mem _ _ hout)
    exact ⟨a, by omega, by omega, rfl⟩

theorem font_getElem? {a : Nat} (h : a < 80) : font[a]? = some (resetByte a) := by
  have hlen : a < font.length := h
  have hin : Config.fontBase ≤ a ∧ a < Config.fontBase + Config.fontSize :=
    ⟨Nat.zero_le a, by rw [Config.fontBase, Config.fontSize]; omega⟩
  rw [resetByte, if_pos hin, Config.fontBase, Nat.sub_zero, List.getD_eq_getElem _ _ hlen,
    List.getElem?_eq_getElem hlen]

/-- Settles O46 (R34, R230): the reset state, field by field; unlisted memory reads as the font and zeros. -/
theorem resetSetsEveryPart : Obligations.ResetSetsEveryPart := by
  refine fun s => ⟨s.resetEvent, rfl, fun k => ?_, rfl, rfl, rfl, fun k => ?_, fun a ha => resetByte_of_le ha,
    fun a ha => font_getElem? ha, pixel_blankScreen, rfl, rfl, rfl, rfl, rfl, rfl⟩
  · exact Vector.getElem_replicate k.isLt
  · exact Vector.getElem_replicate k.isLt

end Sys2Proof
end
